-- ==== Sys2Proof/Word.lean ====
section
/-!
DEFINITION. The widths of the machine's data (spec/00_scope.md R1 and section 7.1): bytes, 16-bit words,
12-bit immediate addresses, 4-bit counts and register numbers. Every value is unsigned; nothing is sign extended.
-/

namespace Sys2Proof

/-- 8 bits: a general register, a memory cell, a timer, a key symbol, the immediate `kk`. -/
abbrev Byte := BitVec 8

/-- 16 bits: the instruction word, `I`, `pc`, a call-stack entry. -/
abbrev Word := BitVec 16

/-- 12 bits: the immediate `addr` (30_encoding.md R61). -/
abbrev Addr12 := BitVec 12

/-- 4 bits: the immediate `n` (30_encoding.md R61). -/
abbrev Nibble := BitVec 4

/-- The number of a general register, 0 to 15: a 4-bit field names every register and no other (10_state.md R10, R11). -/
abbrev Reg := Fin 16

/-- `VF`, the register that the flag-writing instructions reuse as their flag output (10_state.md R12). -/
abbrev Reg.vf : Reg := 15

end Sys2Proof
end

