-- ==== Sys2Proof/Syntax.lean ====
section
/-!
DEFINITION. The instructions: one constructor per row of spec/opcode_table.json, in the table's order
(30_encoding.md R66). Operands are the fields of R61 that the row's format uses (R62); bits a format does not
examine are no operand (R67, R69; log 15).
-/

namespace Sys2Proof

/-- The 35 instructions. `x`, `y` are register numbers, `kk`, `addr`, `n` unsigned immediates (30_encoding.md R63). -/
inductive Instr where
  /-- `CLS` (44_display.md R140). -/
  | cls
  /-- `RET` (41_control_flow.md R92). -/
  | ret
  /-- `SYS addr`, ignored (41_control_flow.md R90). -/
  | sys (addr : Addr12)
  /-- `JP addr` (R91). -/
  | jp (addr : Addr12)
  /-- `CALL addr` (R93). -/
  | call (addr : Addr12)
  /-- `SE Vx, byte` (R96). -/
  | seImm (x : Reg) (kk : Byte)
  /-- `SNE Vx, byte` (R97). -/
  | sneImm (x : Reg) (kk : Byte)
  /-- `SE Vx, Vy` (R98). -/
  | seReg (x y : Reg)
  /-- `LD Vx, byte` (42_alu.md R110). -/
  | ldImm (x : Reg) (kk : Byte)
  /-- `ADD Vx, byte` (R111). -/
  | addImm (x : Reg) (kk : Byte)
  /-- `LD Vx, Vy` (R112). -/
  | ldReg (x y : Reg)
  /-- `OR Vx, Vy` (R113). -/
  | or (x y : Reg)
  /-- `AND Vx, Vy` (R114). -/
  | and (x y : Reg)
  /-- `XOR Vx, Vy` (R115). -/
  | xor (x y : Reg)
  /-- `ADD Vx, Vy` (R116). -/
  | addReg (x y : Reg)
  /-- `SUB Vx, Vy` (R117). -/
  | sub (x y : Reg)
  /-- `SHR Vx, Vy` (R119). -/
  | shr (x y : Reg)
  /-- `SUBN Vx, Vy` (R118). -/
  | subn (x y : Reg)
  /-- `SHL Vx, Vy` (R120). -/
  | shl (x y : Reg)
  /-- `SNE Vx, Vy` (41_control_flow.md R99). -/
  | sneReg (x y : Reg)
  /-- `LD I, addr` (43_index_memory.md R130). -/
  | ldI (addr : Addr12)
  /-- `JP V0, addr` (41_control_flow.md R100). -/
  | jpV0 (addr : Addr12)
  /-- `RND Vx, byte` (45_timer_key_random.md R156). -/
  | rnd (x : Reg) (kk : Byte)
  /-- `DRW Vx, Vy, n` (44_display.md R141). -/
  | drw (x y : Reg) (n : Nibble)
  /-- `SKP Vx` (45_timer_key_random.md R153). -/
  | skp (x : Reg)
  /-- `SKNP Vx` (R154). -/
  | sknp (x : Reg)
  /-- `LD Vx, DT` (R150). -/
  | ldVxDT (x : Reg)
  /-- `LD Vx, K` (R155). -/
  | ldVxK (x : Reg)
  /-- `LD DT, Vx` (R151). -/
  | ldDTVx (x : Reg)
  /-- `LD ST, Vx` (R152). -/
  | ldSTVx (x : Reg)
  /-- `ADD I, Vx` (43_index_memory.md R131). -/
  | addI (x : Reg)
  /-- `LD F, Vx` (R133). -/
  | ldF (x : Reg)
  /-- `LD B, Vx` (R134). -/
  | ldB (x : Reg)
  /-- `LD [I], Vx` (R135). -/
  | storeRegs (x : Reg)
  /-- `LD Vx, [I]` (R136). -/
  | loadRegs (x : Reg)
  deriving DecidableEq, Repr

end Sys2Proof
end

