-- ==== Sys2Proof/WellFormed.lean ====
section
/-!
DEFINITION. Which terms of `Instr` stand for a word. Register numbers and immediates are in range by their types; the
one check left is that `SYS addr` is not a word of `CLS` or `RET`, which take priority in class 0 (30_encoding.md R66, R67).
-/

namespace Sys2Proof

/-- A class-0 word with low byte 0xE0 is `CLS` (R67), so such an `addr` is none of `SYS`. -/
def Instr.sysNotCls (addr : Addr12) : Bool := addr.extractLsb' 0 8 != 0xE0#8

/-- A class-0 word with low byte 0xEE is `RET` (R67), so such an `addr` is none of `SYS`. -/
def Instr.sysNotRet (addr : Addr12) : Bool := addr.extractLsb' 0 8 != 0xEE#8

/-- The instruction has a word of its own. -/
def Instr.wf : Instr → Bool
  | .sys addr => Instr.sysNotCls addr && Instr.sysNotRet addr
  | .cls | .ret | .jp _ | .call _ | .seImm _ _ | .sneImm _ _ | .seReg _ _ | .ldImm _ _ | .addImm _ _ | .ldReg _ _
  | .or _ _ | .and _ _ | .xor _ _ | .addReg _ _ | .sub _ _ | .shr _ _ | .subn _ _ | .shl _ _ | .sneReg _ _ | .ldI _
  | .jpV0 _ | .rnd _ _ | .drw _ _ _ | .skp _ | .sknp _ | .ldVxDT _ | .ldVxK _ | .ldDTVx _ | .ldSTVx _ | .addI _
  | .ldF _ | .ldB _ | .storeRegs _ | .loadRegs _ => true

end Sys2Proof
end

