-- ==== Sys2Proof/Decode.lean ====
section
/-!
DEFINITION. From bits to instructions and back: the fields of 30_encoding.md R61, the opcode map of R66, the illegal
words of R70, all decoded by `decodeWord`, which is total; then the encoder, written from the same map.
-/

namespace Sys2Proof

/-- Why a byte sequence is no instruction. -/
inductive DecodeError where
  /-- Fewer than two bytes: every instruction is one 16-bit word (30_encoding.md R60). -/
  | truncated
  /-- Class 8 with `n` one of 8, 9, A, B, C, D, F (R70). -/
  | illegalClass8 (word : Word)
  /-- Class E with `lo` neither 9E nor A1 (R70). -/
  | illegalClassE (word : Word)
  /-- Class F with `lo` none of the nine sub-opcodes (R70). -/
  | illegalClassF (word : Word)
  deriving DecidableEq, Repr

/-- `hi = word[15:12]`, the instruction class (R61). -/
def Field.hi (w : Word) : Nibble := w.extractLsb' 12 4

/-- The register number in the four bits from `start` (R61). -/
def Field.reg (start : Nat) (w : Word) : Reg := (w.extractLsb' start 4).toFin

/-- `x = word[11:8]` (R61). -/
def Field.x (w : Word) : Reg := Field.reg 8 w

/-- `y = word[7:4]` (R61). -/
def Field.y (w : Word) : Reg := Field.reg 4 w

/-- `n = word[3:0]` (R61). -/
def Field.n (w : Word) : Nibble := w.extractLsb' 0 4

/-- `kk = lo = word[7:0]` (R61). -/
def Field.kk (w : Word) : Byte := w.extractLsb' 0 8

/-- `addr = word[11:0]` (R61). -/
def Field.addr (w : Word) : Addr12 := w.extractLsb' 0 12

/-- Class 0, dispatched on `lo` alone; never illegal (R67). -/
def decodeClass0 (w : Word) : Instr :=
  if Field.kk w = 0xE0#8 then .cls
  else if Field.kk w = 0xEE#8 then .ret
  else .sys (Field.addr w)

/-- Class 8, dispatched on the low nibble (R64, 90_conflicts.md C1). -/
def decodeClass8 (w : Word) : Except DecodeError Instr :=
  if Field.n w = 0x0#4 then .ok (.ldReg (Field.x w) (Field.y w))
  else if Field.n w = 0x1#4 then .ok (.or (Field.x w) (Field.y w))
  else if Field.n w = 0x2#4 then .ok (.and (Field.x w) (Field.y w))
  else if Field.n w = 0x3#4 then .ok (.xor (Field.x w) (Field.y w))
  else if Field.n w = 0x4#4 then .ok (.addReg (Field.x w) (Field.y w))
  else if Field.n w = 0x5#4 then .ok (.sub (Field.x w) (Field.y w))
  else if Field.n w = 0x6#4 then .ok (.shr (Field.x w) (Field.y w))
  else if Field.n w = 0x7#4 then .ok (.subn (Field.x w) (Field.y w))
  else if Field.n w = 0xE#4 then .ok (.shl (Field.x w) (Field.y w))
  else .error (.illegalClass8 w)

/-- Class E, dispatched on `lo` (R64, R66). -/
def decodeClassE (w : Word) : Except DecodeError Instr :=
  if Field.kk w = 0x9E#8 then .ok (.skp (Field.x w))
  else if Field.kk w = 0xA1#8 then .ok (.sknp (Field.x w))
  else .error (.illegalClassE w)

/-- Class F, dispatched on `lo` (R64, R66). -/
def decodeClassF (w : Word) : Except DecodeError Instr :=
  if Field.kk w = 0x07#8 then .ok (.ldVxDT (Field.x w))
  else if Field.kk w = 0x0A#8 then .ok (.ldVxK (Field.x w))
  else if Field.kk w = 0x15#8 then .ok (.ldDTVx (Field.x w))
  else if Field.kk w = 0x18#8 then .ok (.ldSTVx (Field.x w))
  else if Field.kk w = 0x1E#8 then .ok (.addI (Field.x w))
  else if Field.kk w = 0x29#8 then .ok (.ldF (Field.x w))
  else if Field.kk w = 0x33#8 then .ok (.ldB (Field.x w))
  else if Field.kk w = 0x55#8 then .ok (.storeRegs (Field.x w))
  else if Field.kk w = 0x65#8 then .ok (.loadRegs (Field.x w))
  else .error (.illegalClassF w)

/-- The instruction a word selects (R66), or why it selects none (R70). -/
def decodeWord (w : Word) : Except DecodeError Instr :=
  if Field.hi w = 0x0#4 then .ok (decodeClass0 w)
  else if Field.hi w = 0x1#4 then .ok (.jp (Field.addr w))
  else if Field.hi w = 0x2#4 then .ok (.call (Field.addr w))
  else if Field.hi w = 0x3#4 then .ok (.seImm (Field.x w) (Field.kk w))
  else if Field.hi w = 0x4#4 then .ok (.sneImm (Field.x w) (Field.kk w))
  else if Field.hi w = 0x5#4 then .ok (.seReg (Field.x w) (Field.y w))
  else if Field.hi w = 0x6#4 then .ok (.ldImm (Field.x w) (Field.kk w))
  else if Field.hi w = 0x7#4 then .ok (.addImm (Field.x w) (Field.kk w))
  else if Field.hi w = 0x8#4 then decodeClass8 w
  else if Field.hi w = 0x9#4 then .ok (.sneReg (Field.x w) (Field.y w))
  else if Field.hi w = 0xA#4 then .ok (.ldI (Field.addr w))
  else if Field.hi w = 0xB#4 then .ok (.jpV0 (Field.addr w))
  else if Field.hi w = 0xC#4 then .ok (.rnd (Field.x w) (Field.kk w))
  else if Field.hi w = 0xD#4 then .ok (.drw (Field.x w) (Field.y w) (Field.n w))
  else if Field.hi w = 0xE#4 then decodeClassE w
  else decodeClassF w

/-- The word whose more significant byte is `b0`, the byte at the lower address (20_memory.md R42, R48). -/
def wordOfBytes (b0 b1 : Byte) : Word := b0 ++ b1

/-- The byte of a word that lies at the lower address. -/
def Word.highByte (w : Word) : Byte := w.extractLsb' 8 8

/-- The byte of a word that lies at the higher address. -/
def Word.lowByte (w : Word) : Byte := w.extractLsb' 0 8

/-- The first instruction of a byte sequence and the bytes after it. -/
def decode : List Byte → Except DecodeError (Instr × List Byte)
  | b0 :: b1 :: rest =>
    match decodeWord (wordOfBytes b0 b1) with
    | .ok i => .ok (i, rest)
    | .error e => .error e
  | [_] | [] => .error .truncated

/-- The instruction read from a word numbered as spec/opcode_table.json numbers it: the table's row is the whole 16-bit
word, bit 0 its least significant bit; bits from `nbits` up are 0; the high byte lies first (30_encoding.md R60). -/
def decodeTableWord (nbits w : Nat) : Option Instr :=
  match decode [Word.highByte (BitVec.ofNat 16 (w % 2 ^ nbits)), Word.lowByte (BitVec.ofNat 16 (w % 2 ^ nbits))] with
  | .ok (i, _) => some i
  | .error _ => none

/-- The four bits of a register number. -/
def Reg.bits (r : Reg) : Nibble := BitVec.ofFin r

/-- Formats `XY`, `XYS`, `XYN` (30_encoding.md R62). -/
def encodeXYN (hi : Nibble) (x y : Reg) (n : Nibble) : Word := hi ++ Reg.bits x ++ Reg.bits y ++ n

/-- Formats `XKK` and `XS` (R62). -/
def encodeXKK (hi : Nibble) (x : Reg) (kk : Byte) : Word := hi ++ Reg.bits x ++ kk

/-- Format `NNN` (R62). -/
def encodeNNN (hi : Nibble) (addr : Addr12) : Word := hi ++ addr

/-- The word of an instruction: its row of R66, with the bits its format does not examine 0 (the canonical encodings of
R67 and R69). -/
def encode : Instr → Word
  | .cls => 0x00E0#16
  | .ret => 0x00EE#16
  | .sys addr => encodeNNN 0x0#4 addr
  | .jp addr => encodeNNN 0x1#4 addr
  | .call addr => encodeNNN 0x2#4 addr
  | .seImm x kk => encodeXKK 0x3#4 x kk
  | .sneImm x kk => encodeXKK 0x4#4 x kk
  | .seReg x y => encodeXYN 0x5#4 x y 0x0#4
  | .ldImm x kk => encodeXKK 0x6#4 x kk
  | .addImm x kk => encodeXKK 0x7#4 x kk
  | .ldReg x y => encodeXYN 0x8#4 x y 0x0#4
  | .or x y => encodeXYN 0x8#4 x y 0x1#4
  | .and x y => encodeXYN 0x8#4 x y 0x2#4
  | .xor x y => encodeXYN 0x8#4 x y 0x3#4
  | .addReg x y => encodeXYN 0x8#4 x y 0x4#4
  | .sub x y => encodeXYN 0x8#4 x y 0x5#4
  | .shr x y => encodeXYN 0x8#4 x y 0x6#4
  | .subn x y => encodeXYN 0x8#4 x y 0x7#4
  | .shl x y => encodeXYN 0x8#4 x y 0xE#4
  | .sneReg x y => encodeXYN 0x9#4 x y 0x0#4
  | .ldI addr => encodeNNN 0xA#4 addr
  | .jpV0 addr => encodeNNN 0xB#4 addr
  | .rnd x kk => encodeXKK 0xC#4 x kk
  | .drw x y n => encodeXYN 0xD#4 x y n
  | .skp x => encodeXKK 0xE#4 x 0x9E#8
  | .sknp x => encodeXKK 0xE#4 x 0xA1#8
  | .ldVxDT x => encodeXKK 0xF#4 x 0x07#8
  | .ldVxK x => encodeXKK 0xF#4 x 0x0A#8
  | .ldDTVx x => encodeXKK 0xF#4 x 0x15#8
  | .ldSTVx x => encodeXKK 0xF#4 x 0x18#8
  | .addI x => encodeXKK 0xF#4 x 0x1E#8
  | .ldF x => encodeXKK 0xF#4 x 0x29#8
  | .ldB x => encodeXKK 0xF#4 x 0x33#8
  | .storeRegs x => encodeXKK 0xF#4 x 0x55#8
  | .loadRegs x => encodeXKK 0xF#4 x 0x65#8

/-- An instruction as it lies in memory, the more significant byte first (30_encoding.md R60). -/
def encodeBytes (i : Instr) : List Byte := [Word.highByte (encode i), Word.lowByte (encode i)]

end Sys2Proof
end

