-- ==== Sys2Proof/Config.lean ====
section
/-!
DEFINITION. What an implementation fixes: the sizes of 00_scope.md R1, the construction parameters of R2 and R3,
and the free values, which are opaque constants: nothing in Lean can evaluate one or prove a value of it.
-/

namespace Sys2Proof

/-- `MEM_SIZE` (00_scope.md R1). -/
def Config.memSize : Nat := 4096

/-- The size of the glyph table at 0x000: `GLYPH_BYTES` (00_scope.md R1). -/
def Config.glyphBytes : Nat := 80

/-- `PROGRAM_START` (00_scope.md R1, 70_reset_and_hazards.md R191). -/
def Config.programStart : Nat := 0x200

/-- `MAX_PROGRAM_SIZE`, 3583 bytes: one less than the program region holds (00_scope.md R1, 90_conflicts.md C6). -/
def Config.maxProgramSize : Nat := 0xFFF - 0x200

/-- `STACK_DEPTH` (00_scope.md R1). -/
def Config.stackDepth : Nat := 16

/-- The reading of `LD F, Vx` for a register above 15 (43_index_memory.md R133, `GLYPH_OVERRANGE`). -/
inductive GlyphOverrange where
  /-- The offset is `d * 5`, past the glyph table. -/
  | raw
  /-- The offset is `(d & 0x0F) * 5`. -/
  | mask
  deriving DecidableEq, Repr, Inhabited

/-- The 80 glyph bytes at 0x000 to 0x04F (10_state.md R22, `GLYPH_TABLE`). -/
abbrev GlyphTable := Vector Byte 80

/-- The construction parameters: the two switches (00_scope.md R2) and the two open parameters (R3). They are set once
and no step or host command changes them (10_state.md R27, 70_reset_and_hazards.md R192). -/
structure Cfg where
  /-- `cfg.shift_uses_vy`: true, the shifts take their operand from `V[y]`; false, from `V[x]`. -/
  shiftUsesVy : Bool
  /-- `cfg.load_store_increments_i`: true, block store and load advance `I` by `x + 1`. -/
  loadStoreIncrementsI : Bool
  /-- `GLYPH_OVERRANGE`. -/
  glyphOverrange : GlyphOverrange
  /-- `GLYPH_TABLE`. -/
  glyphs : GlyphTable
  deriving DecidableEq, Repr

/-- How the 60 Hz gate of one step is decided (60_exceptions.md R172, R173; log 2). -/
inductive GateInput where
  /-- The abstract interface: `tick_due` itself, a free boolean under no law (R172). -/
  | free (tickDue : Bool)
  /-- The concrete realisation: the monotonic clock's time at the step, in nanoseconds (R173). -/
  | clock (now : Nat)
  deriving DecidableEq, Repr, Inhabited

/-- The inputs of one step (00_scope.md R9): the gate and the byte `rand_byte`. -/
structure StepInput where
  gate : GateInput
  rand : Byte
  deriving DecidableEq, Repr

/-- FREE VALUE (log 3): the reset machine's `cfg.shift_uses_vy`. The spec gives no default. -/
opaque Config.shiftUsesVy : Bool

/-- FREE VALUE (log 3): the reset machine's `cfg.load_store_increments_i`. The spec gives no default. -/
opaque Config.loadStoreIncrementsI : Bool

/-- FREE VALUE (log 4): the reset machine's `GLYPH_OVERRANGE`, one of the two admissible values. -/
opaque Config.glyphOverrange : GlyphOverrange

/-- FREE VALUE (log 1): the gate of the step with this number, where the schedule does not give it. -/
opaque Config.freeGate : Nat → GateInput

/-- FREE VALUE (log 1): `rand_byte` of the step with this number, where the schedule does not give it. -/
opaque Config.freeRandByte : Nat → Byte

/-- PRESUMED (log 5): the customary font, which 10_state.md R22 lists as the default of `GLYPH_TABLE`. -/
def Config.defaultGlyphTable : GlyphTable :=
  (#v[0xF0, 0x90, 0x90, 0x90, 0xF0, 0x20, 0x60, 0x20, 0x20, 0x70, 0xF0, 0x10, 0xF0, 0x80, 0xF0, 0xF0, 0x10, 0xF0, 0x10, 0xF0] : Vector Byte 20) ++
  (#v[0x90, 0x90, 0xF0, 0x10, 0x10, 0xF0, 0x80, 0xF0, 0x10, 0xF0, 0xF0, 0x80, 0xF0, 0x90, 0xF0, 0xF0, 0x10, 0x20, 0x40, 0x40] : Vector Byte 20) ++
  (#v[0xF0, 0x90, 0xF0, 0x90, 0xF0, 0xF0, 0x90, 0xF0, 0x10, 0xF0, 0xF0, 0x90, 0xF0, 0x90, 0x90, 0xE0, 0x90, 0xE0, 0x90, 0xE0] : Vector Byte 20) ++
  (#v[0xF0, 0x80, 0x80, 0x80, 0xF0, 0xE0, 0x90, 0x90, 0x90, 0xE0, 0xF0, 0x80, 0xF0, 0x80, 0xF0, 0xF0, 0x80, 0xF0, 0x80, 0x80] : Vector Byte 20)

/-- The parameters of the machine that `State.reset` is (log 3, log 4, log 5): both switches and `GLYPH_OVERRANGE` free,
the glyph table the default one. -/
def Config.constructed : Cfg where
  shiftUsesVy := Config.shiftUsesVy
  loadStoreIncrementsI := Config.loadStoreIncrementsI
  glyphOverrange := Config.glyphOverrange
  glyphs := Config.defaultGlyphTable

end Sys2Proof
end

