-- ==== Sys2Proof/Machine/State.lean ====
section
/-!
DEFINITION. The state of the machine: every item of 10_state.md, each in one field, as plain data; the fault values of
60_exceptions.md R160; and the state after initialisation (10_state.md R29, 70_reset_and_hazards.md R190).
-/

namespace Sys2Proof.Machine

/-- The fault values (60_exceptions.md R160). A raising step answers a NEXT state whose latch `State.fault` holds the value
(R161, R162; log 7), and no step ever ends in `Host.Outcome.fault`: safe, since a faulted state runs nothing
until the host's reset and is never a final state. -/
inductive Fault where
  /-- Raised by the dispatch of an illegal word; holds the word fetched (R163). Safe: the machine reports it as the spec says. -/
  | invalidOpcode (word : Word)
  /-- Raised by `FetchWord` at `pc >= 0xFFF`; holds that `pc` (R164). Safe: no wrapped fetch can hide in a run. -/
  | fetchOutOfBounds (pc : Word)
  /-- Raised by `CALL` with `sp = 16` (R165). Safe: the machine reports it as the spec says. -/
  | stackOverflow
  /-- Raised by `RET` with `sp = 0` (R165). Safe: the machine reports it as the spec says. -/
  | stackUnderflow
  /-- Raised by `DRW`, `LD B`, `LD [I]`, `LD Vx,[I]` above 0xFFF; holds the lowest failing address (R167). Safe: no wrapped access. -/
  | memoryOutOfBounds (addr : Nat)
  /-- Raised by `LD B`, `LD [I]` at or below 0x04F; holds the lowest failing address (R168). Safe: no glyph byte changes. -/
  | glyphTableWrite (addr : Nat)
  deriving DecidableEq, Repr

/-- Why an instruction has no meaning. No arm of `exec` answers one: every instruction is modelled. -/
inductive Refusal where
  /-- An arm of `exec` whose meaning is not written yet, by its mnemonic in the opcode table. Safe: nothing is claimed of it. -/
  | notModelled (mnemonic : String)
  deriving DecidableEq, Repr

/-- The listed bytes of memory, addresses strictly rising; what an unlisted address reads as is `Memory.unlisted` (log 6). -/
abbrev Memory := List Host.Cell

/-- 32 rows of 64 pixels, true for lit (10_state.md R23). -/
abbrev Framebuffer := Vector (Vector Bool 64) 32

/-- The state of the core. -/
structure State where
  /-- `V[0]` to `V[15]` (10_state.md R10). -/
  v : Vector Byte 16
  /-- `I` (R19). -/
  index : Word
  /-- `pc` (R14). -/
  pc : Word
  /-- `sp`, the number of return addresses held, 0 to 16 (R20; log 14). -/
  sp : Fin 17
  /-- `stack[0..15]` (R20). -/
  stack : Vector Word 16
  /-- The 4096 bytes of memory (R22), read by `State.readByte`. -/
  mem : Memory
  /-- `fb[r][c]` (R23). -/
  fb : Framebuffer
  /-- `DT` (R24). -/
  dt : Byte
  /-- `ST` (R24). -/
  st : Byte
  /-- `last_tick`, the time of the last decrement, in nanoseconds (R25; log 2). -/
  lastTick : Option Nat
  /-- `key`, the input latch (R26). -/
  key : Option Byte
  /-- The switches and the open parameters, fixed at construction (R27). -/
  cfg : Cfg
  /-- `fault`, the fault latch (R28). -/
  fault : Option Fault
  /-- The model's own: inputs of the coming steps that are already given (log 1). -/
  schedule : List StepInput
  /-- The model's own: how many steps were executed, the argument of the free inputs (log 1). -/
  stepNo : Nat
  deriving DecidableEq, Repr

/-- All pixels off (10_state.md R23, 44_display.md R140). -/
def Framebuffer.blank : Framebuffer := Vector.replicate 32 (Vector.replicate 64 false)

/-- The state after construction with the given parameters (10_state.md R29, 70_reset_and_hazards.md R190). Nothing is
listed in memory: 0x000 to 0x04F read as the glyph table and the rest as 0. -/
def State.init (cfg : Cfg) : State where
  v := Vector.replicate 16 0#8
  index := 0#16
  pc := 0x200#16
  sp := 0
  stack := Vector.replicate 16 0#16
  mem := []
  fb := Framebuffer.blank
  dt := 0#8
  st := 0#8
  lastTick := none
  key := none
  cfg := cfg
  fault := none
  schedule := []
  stepNo := 0

/-- The machine right after reset: the initialised machine whose parameters are `Config.constructed` (log 3, log 4, log 5). -/
def State.reset : State := State.init Config.constructed

end Sys2Proof.Machine
end

