-- ==== Sys2Proof/Machine/Ops.lean ====
section
/-!
DEFINITION. The named operations over the state: registers, program counter, memory (20_memory.md R42 to R46), the call
stack (41_control_flow.md R92, R93), the inputs of a step, raising a fault (60_exceptions.md R160, R161) and the host's
`reset()`, the only way out of one (R162, 70_reset_and_hazards.md R193).
-/

namespace Sys2Proof.Machine

/-- What a meaning or a step answers. -/
abbrev Result := Host.Outcome State Fault Refusal

/-! ### Registers and the program counter -/

/-- `V[x]` (00_scope.md section 7.2). -/
def State.reg (s : State) (x : Reg) : Byte := s.v[x.val]'x.isLt

/-- `V[x] <- b`. -/
def State.setReg (s : State) (x : Reg) (b : Byte) : State := { s with v := s.v.set x.val b x.isLt }

/-- `I <- a`. -/
def State.setIndex (s : State) (a : Word) : State := { s with index := a }

/-- The commit `pc <- a` (40_step_cycle.md R84; log 16). -/
def State.jump (s : State) (a : Word) : State := { s with pc := a }

/-- The default `next_pc`, `pc + 2` (40_step_cycle.md R82). -/
def State.nextPc (s : State) : Word := s.pc + 2#16

/-- The commit of the default `next_pc`. -/
def State.advance (s : State) : State := s.jump s.nextPc

/-- The commit of a conditional skip: `pc + 4` if the condition holds, else `pc + 2` (41_control_flow.md R96 to R99, R101). -/
def State.skipIf (s : State) (c : Bool) : State := s.jump (if c then s.pc + 4#16 else s.nextPc)

/-! ### Faults and the way out of them -/

/-- `raise f`: the step is abandoned and `f` is latched; every other item of state is as the raising instruction found
it, `pc` included (60_exceptions.md R160, R161). It answers a next state (log 7). -/
def raise (f : Fault) (s : State) : Result := .next { s with fault := some f }

/-- Memory `clear()`: 0x200 to 0xFFF become 0, the bytes below are kept (70_reset_and_hazards.md R195; log 23). -/
def State.clearProgram (s : State) : State := { s with mem := s.mem.filter (fun cell => cell.1 < Config.programStart) }

/-- The host's `reset()`: everything but the construction parameters and memory below 0x200 returns to its value after
initialisation, the fault latch included (70_reset_and_hazards.md R193, R194). The inputs still to come are the
environment's and stay (log 1). -/
def State.hostReset (s : State) : State :=
  { State.init s.cfg with mem := s.clearProgram.mem, schedule := s.schedule, stepNo := s.stepNo }

/-! ### Memory -/

/-- What an address that is not listed reads as: the glyph table at 0x000 to 0x04F, elsewhere 0 (10_state.md R29). -/
def Memory.unlisted (g : GlyphTable) (a : Nat) : Byte := if h : a < 80 then g[a] else 0#8

/-- The byte at an address: the listed one, or what an unlisted address reads as. -/
def Memory.read (g : GlyphTable) : Memory → Nat → Byte
  | [], a => Memory.unlisted g a
  | (b, w) :: m, a => if a = b then w else Memory.read g m a

/-- The memory with one byte replaced, in canonical form: addresses rising, and a byte equal to what an unlisted
address reads as is not listed (log 6). -/
def Memory.write (g : GlyphTable) : Memory → Nat → Byte → Memory
  | [], a, v => if v = Memory.unlisted g a then [] else [(a, v)]
  | (b, w) :: m, a, v =>
    if a < b then
      if v = Memory.unlisted g a then (b, w) :: m else (a, v) :: (b, w) :: m
    else if a = b then
      if v = Memory.unlisted g a then m else (a, v) :: m
    else (b, w) :: Memory.write g m a v

/-- The canonical form above a lower bound: addresses at least `lo`, strictly rising, inside memory, none listed with what
an unlisted address reads as. -/
def Memory.wfFrom (g : GlyphTable) : Nat → Memory → Bool
  | _, [] => true
  | lo, (a, v) :: m =>
    decide (lo ≤ a) && decide (a < Config.memSize) && (v != Memory.unlisted g a) && Memory.wfFrom g (a + 1) m

/-- The canonical form of a memory (log 6). -/
def Memory.wf (g : GlyphTable) (m : Memory) : Bool := Memory.wfFrom g 0 m

/-- The byte of memory at an address 0x000 to 0xFFF, with no check. -/
def State.readByte (s : State) (a : Nat) : Byte := Memory.read s.cfg.glyphs s.mem a

/-- One byte of memory replaced, with no check. -/
def State.writeByte (s : State) (a : Nat) (v : Byte) : State := { s with mem := Memory.write s.cfg.glyphs s.mem a v }

/-- Bytes stored at consecutive addresses, ascending, with no check. -/
def State.writeBytes (s : State) : Nat → List Byte → State
  | _, [] => s
  | a, b :: bs => State.writeBytes (s.writeByte a b) (a + 1) bs

/-- `count` bytes from consecutive addresses, ascending, with no check. -/
def State.readBytes (s : State) (a count : Nat) : List Byte := (List.range count).map (fun k => s.readByte (a + k))

/-- What `MemRead` raises at an address (20_memory.md R43). -/
def readFault (a : Nat) : Option Fault := if 0xFFF < a then some (.memoryOutOfBounds a) else none

/-- What `MemWrite` raises at an address (20_memory.md R44). -/
def writeFault (a : Nat) : Option Fault :=
  if 0xFFF < a then some (.memoryOutOfBounds a) else if a ≤ 0x04F then some (.glyphTableWrite a) else none

/-- The fault of the lowest failing address among `count` consecutive ones (20_memory.md R46, 60_exceptions.md R166). -/
def firstFault (check : Nat → Option Fault) (base count : Nat) : Option Fault :=
  (List.range count).findSome? (fun k => check (base + k))

/-- All accesses of an instruction are checked before any effect: the lowest failing address raises, else the
instruction goes on (20_memory.md R46). -/
def checked (check : Nat → Option Fault) (base count : Nat) (s : State) (onOk : Result) : Result :=
  match firstFault check base count with
  | some f => raise f s
  | none => onOk

/-- `FetchWord(a)`: two consecutive bytes, big-endian, any parity, never wrapping (20_memory.md R42). -/
def State.fetchWord (s : State) (a : Word) : Except Fault Word :=
  if 0xFFF < a.toNat + 1 then .error (.fetchOutOfBounds a)
  else .ok (wordOfBytes (s.readByte a.toNat) (s.readByte (a.toNat + 1)))

/-! ### The call stack -/

/-- `Push(v)` on a stack that is not full (41_control_flow.md R93). -/
def State.push (s : State) (w : Word) (h : s.sp.val < 16) : State :=
  { s with stack := s.stack.set s.sp.val w h, sp := ⟨s.sp.val + 1, by omega⟩ }

/-- `Pop()` on a stack that is not empty: the popped entry, and the state with `sp` one lower; the entry itself stays
(41_control_flow.md R92). -/
def State.pop (s : State) : Word × State :=
  (s.stack[s.sp.val - 1]'(by omega), { s with sp := ⟨s.sp.val - 1, by omega⟩ })

/-! ### The inputs of a step -/

/-- The inputs of the step under way: the scheduled ones, or the free values of this step number (log 1). -/
def State.input (s : State) : StepInput :=
  match s.schedule with
  | i :: _ => i
  | [] => { gate := Config.freeGate s.stepNo, rand := Config.freeRandByte s.stepNo }

/-- The step is over: its inputs are used up (log 1). -/
def State.nextInput (s : State) : State := { s with schedule := s.schedule.tail, stepNo := s.stepNo + 1 }

end Sys2Proof.Machine
end

