-- ==== Sys2Proof/Machine/Flags.lean ====
section
/-!
DEFINITION. The flag outputs of 10_state.md R12 and the order in which result and flag are written (R13). Results are
computed on naturals and narrowed, as the pseudocode of 42_alu.md does.
-/

namespace Sys2Proof.Machine

/-- A flag as the value written to `VF`: always 0 or 1 (10_state.md R12). -/
def flagByte (c : Bool) : Byte := if c then 1#8 else 0#8

/-- Carry out of an 8-bit addition (42_alu.md R116). -/
def carryOut (a b : Byte) : Bool := decide (255 < a.toNat + b.toNat)

/-- No borrow in `a - b`: `a >= b` (42_alu.md R117, R118). -/
def noBorrow (a b : Byte) : Bool := decide (b.toNat ≤ a.toNat)

/-- The bit a right shift by one moves out: bit 0 of the operand (42_alu.md R119). -/
def shiftedOutRight (a : Byte) : Bool := a.getLsbD 0

/-- The bit a left shift by one moves out: bit 7 of the operand (42_alu.md R120). -/
def shiftedOutLeft (a : Byte) : Bool := a.getLsbD 7

/-- The flag written to `VF`. -/
def State.setFlag (s : State) (c : Bool) : State := s.setReg Reg.vf (flagByte c)

/-- The result to `V[x]`, then the flag to `VF`, last: with `x = 15` the flag stays and the result is lost
(10_state.md R13). -/
def State.setResultAndFlag (s : State) (x : Reg) (result : Byte) (c : Bool) : State := (s.setReg x result).setFlag c

end Sys2Proof.Machine
end

