-- ==== Sys2Proof/Machine/Operands.lean ====
section
/-!
DEFINITION. Operand forms: the zero-extended immediate address (30_encoding.md R63), the shift operand that a switch
selects (00_scope.md R2), the data address `I` (43_index_memory.md R138), the glyph offset (R133), the BCD digits
(R134), the register run of block store and load (R135, R136).
-/

namespace Sys2Proof.Machine

/-- `zext_16(addr)` (30_encoding.md R63). -/
def addrWord (addr : Addr12) : Word := addr.setWidth 16

/-- The operand of `SHR` and `SHL`: `V[y]` if `cfg.shift_uses_vy`, else `V[x]` (42_alu.md R119, R120). -/
def State.shiftOperand (s : State) (x y : Reg) : Byte := if s.cfg.shiftUsesVy then s.reg y else s.reg x

/-- The address data accesses start at: `I`, on naturals, so that `I + k` never wraps (20_memory.md R45). -/
def State.dataAddr (s : State) : Nat := s.index.toNat

/-- `d * 5`, or above 15 what `GLYPH_OVERRANGE` says (43_index_memory.md R133). -/
def glyphOffset (o : GlyphOverrange) (d : Byte) : Word :=
  if d.toNat ≤ 0x0F then BitVec.ofNat 16 (d.toNat * 5)
  else
    match o with
    | .raw => BitVec.ofNat 16 (d.toNat * 5)
    | .mask => BitVec.ofNat 16 ((d &&& 0x0F#8).toNat * 5)

/-- Hundreds, tens, ones of a byte, most significant first (43_index_memory.md R134). -/
def bcdDigits (b : Byte) : List Byte :=
  [BitVec.ofNat 8 (b.toNat / 100), BitVec.ofNat 8 (b.toNat / 10 % 10), BitVec.ofNat 8 (b.toNat % 10)]

/-- `V[0]` to `V[x]`, ascending (43_index_memory.md R135). -/
def State.regRun (s : State) (x : Reg) : List Byte := s.v.toList.take (x.val + 1)

/-- `V[k]` for `k <= x` taken from the bytes at `a + k`; the other registers are kept (43_index_memory.md R136). -/
def State.loadRegRun (s : State) (a : Nat) (x : Reg) : State :=
  { s with v := Vector.ofFn (fun k : Fin 16 => if k ≤ x then s.readByte (a + k.val) else s.reg k) }

/-- After a block transfer of `V[0]` to `V[x]`: `I + x + 1` if `cfg.load_store_increments_i`, else `I` unchanged
(43_index_memory.md R135 to R137). -/
def State.bumpIndex (s : State) (x : Reg) : State :=
  if s.cfg.loadStoreIncrementsI then s.setIndex (s.index + BitVec.ofNat 16 (x.val + 1)) else s

end Sys2Proof.Machine
end

