-- ==== Sys2Proof/Machine/Control.lean ====
section
/-!
DEFINITION. Control transfer (spec/41_control_flow.md).
-/

namespace Sys2Proof.Machine

/-- `SYS addr`: no effect but `pc + 2` (R90). -/
def execSys (_addr : Addr12) (s : State) : Result := .next s.advance

/-- `JP addr` (R91). -/
def execJp (addr : Addr12) (s : State) : Result := .next (s.jump (addrWord addr))

/-- `RET`: `pc` is the popped entry, or `StackUnderflow` with `sp = 0` (R92). -/
def execRet (s : State) : Result :=
  if s.sp.val = 0 then raise .stackUnderflow s else .next (s.pop.2.jump s.pop.1)

/-- `CALL addr`: pushes `pc + 2` and jumps, or `StackOverflow` with `sp = 16` (R93). -/
def execCall (addr : Addr12) (s : State) : Result :=
  if h : s.sp.val < 16 then .next ((s.push s.nextPc h).jump (addrWord addr)) else raise .stackOverflow s

/-- `SE Vx, byte` (R96). -/
def execSeImm (x : Reg) (kk : Byte) (s : State) : Result := .next (s.skipIf (s.reg x == kk))

/-- `SNE Vx, byte` (R97). -/
def execSneImm (x : Reg) (kk : Byte) (s : State) : Result := .next (s.skipIf (s.reg x != kk))

/-- `SE Vx, Vy` (R98). -/
def execSeReg (x y : Reg) (s : State) : Result := .next (s.skipIf (s.reg x == s.reg y))

/-- `SNE Vx, Vy` (R99). -/
def execSneReg (x y : Reg) (s : State) : Result := .next (s.skipIf (s.reg x != s.reg y))

/-- `JP V0, addr`: the sum is not reduced modulo 4096 (R100). -/
def execJpV0 (addr : Addr12) (s : State) : Result := .next (s.jump (addrWord addr + (s.reg 0).setWidth 16))

end Sys2Proof.Machine
end

