-- ==== Sys2Proof/Machine/Devices.lean ====
section
/-!
DEFINITION. Timer, key and random instructions (spec/45_timer_key_random.md) and the timer subsystem they talk to
(60_exceptions.md R171 to R174).
-/

namespace Sys2Proof.Machine

/-! ### The 60 Hz gate -/

/-- At least 1/60 second lies between two times given in nanoseconds (60_exceptions.md R172, R173; log 2). -/
def periodElapsed (last now : Nat) : Bool := decide (1000000000 ≤ 60 * (now - last))

/-- `tick_due`: the free input itself (R172), or what the concrete gate says (R173): not on the first step after the
reference was cleared, else when the period has passed. -/
def tickDue (lastTick : Option Nat) : GateInput → Bool
  | .free due => due
  | .clock now =>
    match lastTick with
    | none => false
    | some last => periodElapsed last now

/-- `last_tick` after the gate: the concrete gate moves the reference to `now` when it is cleared or the period has passed
(R173: lost periods are dropped); the free input does not touch it. -/
def lastTickAfter (lastTick : Option Nat) : GateInput → Option Nat
  | .free _ => lastTick
  | .clock now =>
    match lastTick with
    | none => some now
    | some last => if periodElapsed last now then some now else some last

/-- A counter after the tick: one lower if the gate is open and it is not 0 (R171). -/
def countDown (due : Bool) (b : Byte) : Byte := if due then (if b = 0#8 then 0#8 else b - 1#8) else b

/-- `TimerTick`, stage 1 of every step: both counters share one gate (R171). -/
def State.timerTick (s : State) : State :=
  { s with
    dt := countDown (tickDue s.lastTick s.input.gate) s.dt
    st := countDown (tickDue s.lastTick s.input.gate) s.st
    lastTick := lastTickAfter s.lastTick s.input.gate }

/-- The output `sound_active` (R175; log 21). -/
def State.soundActive (s : State) : Bool := s.st != 0#8

/-! ### Timer access -/

/-- `LD Vx, DT`: the timer after this step's tick (45_timer_key_random.md R150). -/
def execLdVxDT (x : Reg) (s : State) : Result := .next (s.setReg x s.dt).advance

/-- `LD DT, Vx`: `last_tick` is not touched (R151). -/
def execLdDTVx (x : Reg) (s : State) : Result := .next ({ s with dt := s.reg x } : State).advance

/-- `LD ST, Vx` (R152). -/
def execLdSTVx (x : Reg) (s : State) : Result := .next ({ s with st := s.reg x } : State).advance

/-! ### The input latch -/

/-- The latch is consumed (60_exceptions.md R177). -/
def State.consumeKey (s : State) : State := { s with key := none }

/-- A key is pending and its symbol is the whole of `V[x]` (45_timer_key_random.md R153). -/
def State.keyMatches (s : State) (x : Reg) : Bool := s.key == some (s.reg x)

/-- `SKP Vx`: the key is consumed whether or not it matched (R153). -/
def execSkp (x : Reg) (s : State) : Result := .next (s.consumeKey.skipIf (s.keyMatches x))

/-- `SKNP Vx`: skips when no key is pending and when another is (R154, 90_conflicts.md C4). -/
def execSknp (x : Reg) (s : State) : Result := .next (s.consumeKey.skipIf (!s.keyMatches x))

/-- `LD Vx, K`: takes the pending key, or waits: `pc` is not written and nothing changes (R155, 40_step_cycle.md R85). -/
def execLdVxK (x : Reg) (s : State) : Result :=
  match s.key with
  | some k => .next ((s.setReg x k).consumeKey).advance
  | none => .next s

/-! ### The random source -/

/-- `RND Vx, byte`: `rand_byte` of this step, masked (R156; log 1). -/
def execRnd (x : Reg) (kk : Byte) (s : State) : Result := .next (s.setReg x (s.input.rand &&& kk)).advance

end Sys2Proof.Machine
end

