-- ==== Sys2Proof/Machine/Display.lean ====
section
/-!
DEFINITION. Display instructions and the XOR blit (spec/44_display.md).
-/

namespace Sys2Proof.Machine

/-- `fb[r][c]`, a pixel (10_state.md R23). -/
def Framebuffer.pixel (fb : Framebuffer) (r : Fin 32) (c : Fin 64) : Bool := (fb[r.val]'r.isLt)[c.val]'c.isLt

/-- `fb[r][c] <- b`. -/
def Framebuffer.setPixel (fb : Framebuffer) (r : Fin 32) (c : Fin 64) (b : Bool) : Framebuffer :=
  fb.set r.val ((fb[r.val]'r.isLt).set c.val b c.isLt) r.isLt

/-- A pixel of the screen. -/
def State.pixel (s : State) (r : Fin 32) (c : Fin 64) : Bool := s.fb.pixel r c

/-- `CLS`: every pixel off; `VF` is not written (R140). -/
def execCls (s : State) : Result := .next ({ s with fb := Framebuffer.blank } : State).advance

/-- The framebuffer row that sprite row `row` lands in: wrapped, not clipped (R142, R143). -/
def blitRow (y : Byte) (row : Nat) : Fin 32 := ⟨(y.toNat + row) % 32, Nat.mod_lt _ (by decide)⟩

/-- The framebuffer column that sprite column `col` lands in: wrapped, not clipped (R142, R143). -/
def blitCol (x : Byte) (col : Nat) : Fin 64 := ⟨(x.toNat + col) % 64, Nat.mod_lt _ (by decide)⟩

/-- The source bit of a sprite row at a column: column 0 is bit 7, the leftmost pixel (R142). -/
def spriteBit (b : Byte) (col : Nat) : Bool := b.getLsbD (7 - col)

/-- The destination bit is XORed with the source bit `src`; the flag records a lit pixel that a set source bit put out (R142). -/
def blitPixel (r : Fin 32) (c : Fin 64) (src : Bool) (acc : Framebuffer × Bool) : Framebuffer × Bool :=
  (acc.1.setPixel r c (acc.1.pixel r c ^^ src), acc.2 || (acc.1.pixel r c && src))

/-- The eight pixels of one sprite row, columns ascending (R142). -/
def blitByte (x y : Byte) (row : Nat) (b : Byte) (acc : Framebuffer × Bool) : Framebuffer × Bool :=
  (List.range 8).foldl (fun acc col => blitPixel (blitRow y row) (blitCol x col) (spriteBit b col) acc) acc

/-- The sprite rows from number `row` on, ascending (R142). -/
def blitRows (x y : Byte) : Nat → List Byte → Framebuffer × Bool → Framebuffer × Bool
  | _, [], acc => acc
  | row, b :: bs, acc => blitRows x y (row + 1) bs (blitByte x y row b acc)

/-- `Blit(x, y, rows)`: the framebuffer after it and whether any pixel went from lit to off (R142). -/
def blit (x y : Byte) (rows : List Byte) (fb : Framebuffer) : Framebuffer × Bool := blitRows x y 0 rows (fb, false)

/-- `DRW Vx, Vy, n`: `n` bytes at `I` drawn at column `V[x]`, row `V[y]`; `VF` is the collision, written last and
always, also for `n = 0` (R141). -/
def execDrw (x y : Reg) (n : Nibble) (s : State) : Result :=
  checked readFault s.dataAddr n.toNat s
    (.next (({ s with fb := (blit (s.reg x) (s.reg y) (s.readBytes s.dataAddr n.toNat) s.fb).1 } : State).setFlag
      (blit (s.reg x) (s.reg y) (s.readBytes s.dataAddr n.toNat) s.fb).2).advance)

end Sys2Proof.Machine
end

