-- ==== Sys2Proof/Machine/IndexMemory.lean ====
section
/-!
DEFINITION. Index-register and memory instructions (spec/43_index_memory.md). Every access is checked before any effect
(20_memory.md R46).
-/

namespace Sys2Proof.Machine

/-- `LD I, addr` (R130). -/
def execLdI (addr : Addr12) (s : State) : Result := .next (s.setIndex (addrWord addr)).advance

/-- `ADD I, Vx`: modulo 65536, no flag (R131). -/
def execAddI (x : Reg) (s : State) : Result := .next (s.setIndex (s.index + (s.reg x).setWidth 16)).advance

/-- `LD F, Vx`: the glyph offset; memory is not accessed (R133; log 4). -/
def execLdF (x : Reg) (s : State) : Result := .next (s.setIndex (glyphOffset s.cfg.glyphOverrange (s.reg x))).advance

/-- `LD B, Vx`: three BCD digits at `I`, `I + 1`, `I + 2` (R134). -/
def execLdB (x : Reg) (s : State) : Result :=
  checked writeFault s.dataAddr 3 s (.next (s.writeBytes s.dataAddr (bcdDigits (s.reg x))).advance)

/-- `LD [I], Vx`: `V[0]` to `V[x]` to memory at `I`, then `I` by the switch (R135). -/
def execStoreRegs (x : Reg) (s : State) : Result :=
  checked writeFault s.dataAddr (x.val + 1) s (.next ((s.writeBytes s.dataAddr (s.regRun x)).bumpIndex x).advance)

/-- `LD Vx, [I]`: memory at `I` to `V[0]` to `V[x]`, then `I` by the switch (R136). -/
def execLoadRegs (x : Reg) (s : State) : Result :=
  checked readFault s.dataAddr (x.val + 1) s (.next ((s.loadRegRun s.dataAddr x).bumpIndex x).advance)

end Sys2Proof.Machine
end

