-- ==== Sys2Proof/Machine/Cycle.lean ====
section
/-!
DEFINITION. The stages of a step after the timer tick (40_step_cycle.md R80): fetch, decode, execute and commit; and the
output `step_status` (R86).
-/

namespace Sys2Proof.Machine

/-- Stages 2 to 4: the word at `pc` is fetched (20_memory.md R42), selects an instruction (30_encoding.md R66), and the
instruction runs and commits `pc`; a failed fetch or an illegal word raises (60_exceptions.md R163, R164, R170). -/
def fetchExecute (s : State) : Result :=
  match s.fetchWord s.pc with
  | .error f => raise f s
  | .ok w =>
    match decodeWord w with
    | .ok i => exec i s
    | .error _ => raise (.invalidOpcode w) s

/-- The step is complete: its inputs are used up (log 1). -/
def endStep : Result → Result
  | .next t => .next t.nextInput
  | .fault f => .fault f
  | .refused r => .refused r

/-- `step_status` (40_step_cycle.md R86). -/
inductive StepStatus where
  | advanced
  | waitingForInput
  deriving DecidableEq, Repr

/-- The status a step from this state reports: `WaitingForInput` when it executes `LD Vx, K` with no key pending, else
`Advanced` (40_step_cycle.md R85, R86; log 11). -/
def State.stepStatus (s : State) : StepStatus :=
  match s.fault, s.fetchWord s.pc, s.key with
  | none, .ok w, none =>
    match decodeWord w with
    | .ok (.ldVxK _) => .waitingForInput
    | _ => .advanced
  | _, _, _ => .advanced

end Sys2Proof.Machine
end

