-- ==== Sys2Proof/Machine/Step.lean ====
section
/-!
DEFINITION. The machine's one transition, `step()` (40_step_cycle.md R80, R87), and the placing of an instruction where it
fetches next.
-/

namespace Sys2Proof.Machine

/-- `step()`: nothing at all while a fault is latched (R87); else the timer tick, which always stands (R81), then fetch,
decode, execute, commit (R80). -/
def step (s : State) : Host.Outcome State Fault Refusal :=
  match s.fault with
  | some _ => .next s
  | none => endStep (fetchExecute s.timerTick)

/-- The state with an instruction placed at `pc`, high byte first, and the fault latch clear, so that the next step fetches
and runs it (log 9). At `pc >= 0xFFF` no instruction can be fetched (20_memory.md R42), and nothing is placed. -/
def State.withFetchWord (s : State) (nbits w : Nat) : State :=
  if s.pc.toNat + 1 ≤ 0xFFF then
    { s.writeBytes s.pc.toNat
        [Word.highByte (BitVec.ofNat 16 (w % 2 ^ nbits)), Word.lowByte (BitVec.ofNat 16 (w % 2 ^ nbits))] with
      fault := none }
  else s

end Sys2Proof.Machine
end

