-- ==== Sys2Proof/Machine/HostCommands.lean ====
section
/-!
DEFINITION. What the host does between steps (00_scope.md R5, R9; 70_reset_and_hazards.md R196 to R201): set the key latch,
load a program, clear the program region, reset, read the framebuffer; and the transition of the block under any sequence
of host commands and steps (log 8).
-/

namespace Sys2Proof.Machine

/-- `set_key(k)`: sets or clears the latch, replacing what was pending (60_exceptions.md R176). -/
def State.setKey (s : State) (k : Option Byte) : State := { s with key := k }

/-- What `load_program` reports (70_reset_and_hazards.md R196, 60_exceptions.md R169). -/
inductive LoadResult where
  | ok
  /-- The sequence has more than 3583 bytes; not a fault, nothing changed. -/
  | programTooLarge (len : Nat)
  deriving DecidableEq, Repr

/-- `load_program(bytes)`: the bytes lie in memory from 0x200 on and nothing else changes (R196, R197); a sequence that is
too long is refused and changes nothing. -/
def State.loadProgram (s : State) (bytes : List Byte) : State × LoadResult :=
  if Config.maxProgramSize < bytes.length then (s, .programTooLarge bytes.length)
  else (s.writeBytes Config.programStart bytes, .ok)

/-- The framebuffer read-out: 2048 booleans, row-major (R200). -/
def State.framebufferRead (s : State) : List Bool := s.fb.toList.flatMap (fun row => row.toList)

/-- One step whose inputs are given: `step()` as the relation of 00_scope.md R9 (log 1). -/
def State.stepWith (s : State) (input : StepInput) : Result :=
  match s.fault with
  | some _ => .next s
  | none => step { s with schedule := input :: s.schedule }

/-- What can happen to the block: a step, or a host command between steps (70_reset_and_hazards.md R201). -/
inductive Event where
  | step
  | stepWith (input : StepInput)
  | setKey (k : Option Byte)
  | loadProgram (bytes : List Byte)
  /-- Memory `clear()` (20_memory.md R47, 70_reset_and_hazards.md R195, R197). -/
  | clear
  | reset
  deriving DecidableEq, Repr

/-- The block's transition under an event. DESIGN CHOICE (log 28): `set_key` and memory `clear()` act while a fault is
latched too, as `load_program` does (log 24), and none of them touches the latch. -/
def State.drive (s : State) : Event → Result
  | .step => Sys2Proof.Machine.step s
  | .stepWith input => s.stepWith input
  | .setKey k => .next (s.setKey k)
  | .loadProgram bytes => .next (s.loadProgram bytes).1
  | .clear => .next s.clearProgram
  | .reset => .next s.hostReset

/-- A sequence of events, in the host's call order (R201). -/
def State.driveAll (s : State) : List Event → Result
  | [] => .next s
  | e :: es =>
    match s.drive e with
    | .next t => State.driveAll t es
    | .fault f => .fault f
    | .refused r => .refused r

end Sys2Proof.Machine
end

