-- ==== Sys2Proof/Safety.lean ====
section
/-!
DEFINITION. What counts as a safe state and a safe run, in the terms claims use: the invariant of 10_state.md R30, a
running machine (60_exceptions.md R162), a finished run (70_reset_and_hazards.md R206).
-/

namespace Sys2Proof.Machine

/-- The memory is in its canonical form (log 6). -/
def State.memWf (s : State) : Bool := Memory.wf s.cfg.glyphs s.mem

/-- No byte of the glyph table is listed, so 0x000 to 0x04F read as `GLYPH_TABLE` (10_state.md R30). -/
def State.glyphsIntact (s : State) : Bool := s.mem.all (fun cell => decide (0x050 ≤ cell.1))

/-- The invariant of every reachable state (R30): memory is canonical and the glyph table is untouched. The ranges of `sp`,
the timers and the registers hold by the types of the fields (log 14). -/
abbrev State.Inv (s : State) : Prop := s.memWf = true ∧ s.glyphsIntact = true

/-- No fault is latched. A claim that a program runs correctly has this as part of its conclusion (60_exceptions.md R162). -/
def State.running (s : State) : Bool := s.fault == none

/-- The run is finished: no fault, and the word at `pc` is `JP pc` (70_reset_and_hazards.md R206; log 25). -/
def State.finished (s : State) : Bool :=
  s.running &&
    match s.fetchWord s.pc with
    | .ok w => w == (0x1000#16 ||| s.pc) && decide (s.pc.toNat ≤ 0xFFE)
    | .error _ => false

end Sys2Proof.Machine
end

