-- ==== Sys2Proof/Certificates/Slice0/Obligations.lean ====
section
/-!
DEFINITION. What is claimed of the machine, each from the numbered rules of spec/, and the words the claims are said in:
which parts of the state an instruction may change, and which registers it may write.
-/

namespace Sys2Proof.Claims

open Sys2Proof.Machine

/-- The parts of the state an instruction may be said to change, beside general registers and `pc`. -/
inductive Part where
  | index
  | memory
  | screen
  | stack
  | delay
  | sound
  | latch
  deriving DecidableEq, Repr

/-- The frame of an instruction: from `s` to `t` every register outside `dests`, every part outside `but` (all of memory
read byte by byte, all of the screen pixel by pixel), and the timer reference, the configuration, the fault latch and the
inputs are unchanged. `pc` is not said. -/
def Keeps (but : List Part) (dests : List Reg) (s t : State) : Prop :=
  (∀ r, r ∉ dests → t.reg r = s.reg r) ∧
  (Part.index ∉ but → t.index = s.index) ∧
  (Part.memory ∉ but → ∀ a, t.readByte a = s.readByte a) ∧
  (Part.screen ∉ but → ∀ r c, t.pixel r c = s.pixel r c) ∧
  (Part.stack ∉ but → t.sp = s.sp ∧ t.stack = s.stack) ∧
  (Part.delay ∉ but → t.dt = s.dt) ∧
  (Part.sound ∉ but → t.st = s.st) ∧
  (Part.latch ∉ but → t.key = s.key) ∧
  t.lastTick = s.lastTick ∧ t.cfg = s.cfg ∧ t.fault = s.fault ∧ t.schedule = s.schedule ∧ t.stepNo = s.stepNo

/-- The general registers an instruction may write (10_state.md R11, R12). -/
def MayWrite (i : Instr) (r : Reg) : Prop :=
  match i with
  | .ldImm x _ | .addImm x _ | .ldReg x _ | .or x _ | .and x _ | .xor x _ | .rnd x _ | .ldVxDT x | .ldVxK x => r = x
  | .addReg x _ | .sub x _ | .subn x _ | .shr x _ | .shl x _ => r = x ∨ r = Reg.vf
  | .drw _ _ _ => r = Reg.vf
  | .loadRegs x => r ≤ x
  | .cls | .ret | .sys _ | .jp _ | .call _ | .seImm _ _ | .sneImm _ _ | .seReg _ _ | .sneReg _ _ | .ldI _ | .jpV0 _
  | .skp _ | .sknp _ | .ldDTVx _ | .ldSTVx _ | .addI _ | .ldF _ | .ldB _ | .storeRegs _ => False

/-- The instructions that write `VF` as a flag (10_state.md R12). -/
def WritesFlag (i : Instr) : Prop :=
  match i with
  | .addReg _ _ | .sub _ _ | .subn _ _ | .shr _ _ | .shl _ _ | .drw _ _ _ => True
  | .cls | .ret | .sys _ | .jp _ | .call _ | .seImm _ _ | .sneImm _ _ | .seReg _ _ | .ldImm _ _ | .addImm _ _
  | .ldReg _ _ | .or _ _ | .and _ _ | .xor _ _ | .sneReg _ _ | .ldI _ | .jpV0 _ | .rnd _ _ | .skp _ | .sknp _
  | .ldVxDT _ | .ldVxK _ | .ldDTVx _ | .ldSTVx _ | .addI _ | .ldF _ | .ldB _ | .storeRegs _ | .loadRegs _ => False

/-- A step from `s` executes the instruction `i`: no fault is latched and the two bytes at `pc` decode to it. -/
abbrev Executes (s : State) (i : Instr) : Prop :=
  s.fault = none ∧ s.pc.toNat + 1 ≤ 0xFFF ∧ decode [s.readByte s.pc.toNat, s.readByte (s.pc.toNat + 1)] = .ok (i, [])

/-- The bit of the sprite at `I` that a `DRW` of `n` rows at column `px`, row `py` sends to the pixel `(r, c)` is set:
some row and column of the sprite land there, wrapped, and the byte's bit for that column is 1 (44_display.md R142). -/
def SpriteSets (s : State) (px py : Byte) (n : Nibble) (r : Fin 32) (c : Fin 64) : Prop :=
  ∃ row col : Nat, row < n.toNat ∧ col < 8 ∧ r.val = (py.toNat + row) % 32 ∧ c.val = (px.toNat + col) % 64 ∧
    (s.readByte (s.dataAddr + row)).getLsbD (7 - col) = true

/-- The bits of an instruction's word that decoding examines (30_encoding.md R67, R69). -/
def examined (i : Instr) : Word :=
  match i with
  | .cls | .ret => 0xF0FF#16
  | .seReg _ _ | .sneReg _ _ => 0xFFF0#16
  | .sys _ | .jp _ | .call _ | .seImm _ _ | .sneImm _ _ | .ldImm _ _ | .addImm _ _ | .ldReg _ _ | .or _ _ | .and _ _
  | .xor _ _ | .addReg _ _ | .sub _ _ | .shr _ _ | .subn _ _ | .shl _ _ | .ldI _ | .jpV0 _ | .rnd _ _ | .drw _ _ _
  | .skp _ | .sknp _ | .ldVxDT _ | .ldVxK _ | .ldDTVx _ | .ldSTVx _ | .addI _ | .ldF _ | .ldB _ | .storeRegs _
  | .loadRegs _ => 0xFFFF#16

/-- A word meets a row of the opcode map. -/
abbrev Row (w mask pattern : Word) : Prop := w &&& mask = pattern

/-- The register number in bits `start + 3` to `start` of a word. -/
def regAt (w : Word) (start : Nat) : Reg := ⟨w.toNat / 2 ^ start % 16, Nat.mod_lt _ (by decide)⟩

/-- A word of one of the three illegal sets of 30_encoding.md R70. -/
def Illegal (w : Word) : Prop :=
  (w.toNat / 4096 = 0x8 ∧ w.toNat % 16 ∈ [0x8, 0x9, 0xA, 0xB, 0xC, 0xD, 0xF]) ∨
  (w.toNat / 4096 = 0xE ∧ w.toNat % 256 ∉ [0x9E, 0xA1]) ∨
  (w.toNat / 4096 = 0xF ∧ w.toNat % 256 ∉ [0x07, 0x0A, 0x15, 0x18, 0x1E, 0x29, 0x33, 0x55, 0x65])

end Sys2Proof.Claims

open Sys2Proof Sys2Proof.Machine Sys2Proof.Claims

/-! ### Initialisation, reset, invariants -/

/-- 10_state.md R29 (both columns), 70_reset_and_hazards.md R193, R194. The construction parameters are quantified. -/
def Obligations.InitialisationAndResetValues : Prop :=
  (∀ cfg : Cfg, ∀ s : State, s = State.init cfg →
    (∀ r, s.reg r = 0#8) ∧ s.index = 0#16 ∧ s.pc = 0x200#16 ∧ s.sp = 0 ∧ (∀ k : Fin 16, s.stack[k.val] = 0#16) ∧
    (∀ a : Fin 80, s.readByte a.val = cfg.glyphs[a.val]) ∧ (∀ a, 0x050 ≤ a → a ≤ 0xFFF → s.readByte a = 0#8) ∧
    (∀ r c, s.pixel r c = false) ∧ s.dt = 0#8 ∧ s.st = 0#8 ∧ s.lastTick = none ∧ s.key = none ∧ s.cfg = cfg ∧
    s.fault = none) ∧
  (∀ s : State,
    (∀ r, s.hostReset.reg r = 0#8) ∧ s.hostReset.index = 0#16 ∧ s.hostReset.pc = 0x200#16 ∧ s.hostReset.sp = 0 ∧
    (∀ k : Fin 16, s.hostReset.stack[k.val] = 0#16) ∧ (∀ a, a ≤ 0x1FF → s.hostReset.readByte a = s.readByte a) ∧
    (∀ a, 0x200 ≤ a → a ≤ 0xFFF → s.hostReset.readByte a = 0#8) ∧ (∀ r c, s.hostReset.pixel r c = false) ∧
    s.hostReset.dt = 0#8 ∧ s.hostReset.st = 0#8 ∧ s.hostReset.lastTick = none ∧ s.hostReset.key = none ∧
    s.hostReset.cfg = s.cfg ∧ s.hostReset.fault = none)

/-- The invariant of 10_state.md R30 holds after initialisation, for all construction parameters, and so at `State.reset`. -/
def Obligations.InitialStateMeetsInvariant : Prop := (∀ cfg, (State.init cfg).Inv) ∧ State.reset.Inv

/-- The invariant of 10_state.md R30 is kept by every step. -/
def Obligations.StepKeepsInvariant : Prop := ∀ s t : State, s.Inv → step s = .next t → t.Inv

/-- 10_state.md R30, R27, 70_reset_and_hazards.md R192, R195: in every state reached from initialisation by any sequence of
steps and host commands, memory is canonical, 0x000 to 0x04F equal `GLYPH_TABLE`, and the construction parameters are as
constructed. Which host commands there are and that they act on a faulted machine too: log 8, log 24, log 28. -/
def Obligations.ReachableStatesKeepGlyphsAndParameters : Prop :=
  ∀ (cfg : Cfg) (es : List Event) (t : State), (State.init cfg).driveAll es = .next t →
    t.Inv ∧ (∀ a : Fin 80, t.readByte a.val = cfg.glyphs[a.val]) ∧ t.cfg = cfg

/-! ### Encoding -/

/-- Decoding an encoded well-formed instruction gives it back, from the word and from the bytes in memory order. -/
def Obligations.DecodeEncodeRoundTrip : Prop :=
  ∀ i : Instr, i.wf = true →
    decodeWord (encode i) = .ok i ∧ ∀ rest, decode (encodeBytes i ++ rest) = .ok (i, rest)

/-- What decodes is well-formed, and its canonical word agrees with the decoded word on every bit that is examined. -/
def Obligations.DecodedWordReencodes : Prop :=
  ∀ (w : Word) (i : Instr), decodeWord w = .ok i → i.wf = true ∧ encode i &&& examined i = w &&& examined i

/-- The opcode map, row by row: a word that meets a row, and in class 0 no row listed before, is that row's instruction,
with the operands of the row's fields. -/
def Obligations.OpcodeMapSelectsInstructions : Prop :=
  ∀ w : Word,
    (Row w 0xF0FF#16 0x00E0#16 → decodeWord w = .ok .cls) ∧
    (Row w 0xF0FF#16 0x00EE#16 → decodeWord w = .ok .ret) ∧
    (Row w 0xF000#16 0x0000#16 → ¬ Row w 0xF0FF#16 0x00E0#16 → ¬ Row w 0xF0FF#16 0x00EE#16 →
      decodeWord w = .ok (.sys (w.setWidth 12))) ∧
    (Row w 0xF000#16 0x1000#16 → decodeWord w = .ok (.jp (w.setWidth 12))) ∧
    (Row w 0xF000#16 0x2000#16 → decodeWord w = .ok (.call (w.setWidth 12))) ∧
    (Row w 0xF000#16 0x3000#16 → decodeWord w = .ok (.seImm (regAt w 8) (w.setWidth 8))) ∧
    (Row w 0xF000#16 0x4000#16 → decodeWord w = .ok (.sneImm (regAt w 8) (w.setWidth 8))) ∧
    (Row w 0xF000#16 0x5000#16 → decodeWord w = .ok (.seReg (regAt w 8) (regAt w 4))) ∧
    (Row w 0xF000#16 0x6000#16 → decodeWord w = .ok (.ldImm (regAt w 8) (w.setWidth 8))) ∧
    (Row w 0xF000#16 0x7000#16 → decodeWord w = .ok (.addImm (regAt w 8) (w.setWidth 8))) ∧
    (Row w 0xF00F#16 0x8000#16 → decodeWord w = .ok (.ldReg (regAt w 8) (regAt w 4))) ∧
    (Row w 0xF00F#16 0x8001#16 → decodeWord w = .ok (.or (regAt w 8) (regAt w 4))) ∧
    (Row w 0xF00F#16 0x8002#16 → decodeWord w = .ok (.and (regAt w 8) (regAt w 4))) ∧
    (Row w 0xF00F#16 0x8003#16 → decodeWord w = .ok (.xor (regAt w 8) (regAt w 4))) ∧
    (Row w 0xF00F#16 0x8004#16 → decodeWord w = .ok (.addReg (regAt w 8) (regAt w 4))) ∧
    (Row w 0xF00F#16 0x8005#16 → decodeWord w = .ok (.sub (regAt w 8) (regAt w 4))) ∧
    (Row w 0xF00F#16 0x8006#16 → decodeWord w = .ok (.shr (regAt w 8) (regAt w 4))) ∧
    (Row w 0xF00F#16 0x8007#16 → decodeWord w = .ok (.subn (regAt w 8) (regAt w 4))) ∧
    (Row w 0xF00F#16 0x800E#16 → decodeWord w = .ok (.shl (regAt w 8) (regAt w 4))) ∧
    (Row w 0xF000#16 0x9000#16 → decodeWord w = .ok (.sneReg (regAt w 8) (regAt w 4))) ∧
    (Row w 0xF000#16 0xA000#16 → decodeWord w = .ok (.ldI (w.setWidth 12))) ∧
    (Row w 0xF000#16 0xB000#16 → decodeWord w = .ok (.jpV0 (w.setWidth 12))) ∧
    (Row w 0xF000#16 0xC000#16 → decodeWord w = .ok (.rnd (regAt w 8) (w.setWidth 8))) ∧
    (Row w 0xF000#16 0xD000#16 → decodeWord w = .ok (.drw (regAt w 8) (regAt w 4) (w.setWidth 4))) ∧
    (Row w 0xF0FF#16 0xE09E#16 → decodeWord w = .ok (.skp (regAt w 8))) ∧
    (Row w 0xF0FF#16 0xE0A1#16 → decodeWord w = .ok (.sknp (regAt w 8))) ∧
    (Row w 0xF0FF#16 0xF007#16 → decodeWord w = .ok (.ldVxDT (regAt w 8))) ∧
    (Row w 0xF0FF#16 0xF00A#16 → decodeWord w = .ok (.ldVxK (regAt w 8))) ∧
    (Row w 0xF0FF#16 0xF015#16 → decodeWord w = .ok (.ldDTVx (regAt w 8))) ∧
    (Row w 0xF0FF#16 0xF018#16 → decodeWord w = .ok (.ldSTVx (regAt w 8))) ∧
    (Row w 0xF0FF#16 0xF01E#16 → decodeWord w = .ok (.addI (regAt w 8))) ∧
    (Row w 0xF0FF#16 0xF029#16 → decodeWord w = .ok (.ldF (regAt w 8))) ∧
    (Row w 0xF0FF#16 0xF033#16 → decodeWord w = .ok (.ldB (regAt w 8))) ∧
    (Row w 0xF0FF#16 0xF055#16 → decodeWord w = .ok (.storeRegs (regAt w 8))) ∧
    (Row w 0xF0FF#16 0xF065#16 → decodeWord w = .ok (.loadRegs (regAt w 8)))

/-- The three sets of 30_encoding.md R70 (its counts are not said): exactly their words select no instruction. -/
def Obligations.IllegalWordsAreExactlyThreeSets : Prop :=
  ∀ w : Word, (∃ e, decodeWord w = .error e) ↔ Illegal w

/-- Words the spec writes out, and the instructions they stand for. The first two are the source's own (R65). The others
rest on the customary numbers (D2, log 17), 0xA2F0 also on D3 (log 17), 0x03EE on D5 and 0x5231 on D6 (log 18). -/
def Obligations.WordsOfTheSpecDecode : Prop :=
  decodeWord 0x600A#16 = .ok (.ldImm 0 0x0A#8) ∧ decodeWord 0x7005#16 = .ok (.addImm 0 0x05#8) ∧
  decodeWord 0x8124#16 = .ok (.addReg 1 2) ∧ decodeWord 0x03EE#16 = .ok .ret ∧ decodeWord 0x5231#16 = .ok (.seReg 2 3) ∧
  decodeWord 0xD015#16 = .ok (.drw 0 1 5) ∧ decodeWord 0xF155#16 = .ok (.storeRegs 1) ∧
  decodeWord 0xE2A1#16 = .ok (.sknp 2) ∧ decodeWord 0xA2F0#16 = .ok (.ldI 0x2F0#12)

/-! ### The step -/

/-- 40_step_cycle.md R80, R83, R84: with no fault latched, a step whose two bytes at `pc` decode to `i` ticks the timers and
is then `exec i`, which commits `pc` (log 16); `endStep` only uses up the step's inputs (log 1). -/
def Obligations.StepRunsDecodedInstruction : Prop :=
  ∀ (s : State) (i : Instr), Executes s i → step s = endStep (exec i s.timerTick)

/-- An instruction placed by `withFetchWord` is what the next step runs (log 9). -/
def Obligations.PlacedInstructionRuns : Prop :=
  ∀ (s : State) (w : Nat) (i : Instr), s.memWf = true → s.pc.toNat + 1 ≤ 0xFFF → decodeTableWord 16 w = some i →
    step (s.withFetchWord 16 w) = endStep (exec i (s.withFetchWord 16 w).timerTick)

/-- 40_step_cycle.md R87: while a fault is latched a step changes nothing. -/
def Obligations.FaultedStepChangesNothing : Prop :=
  ∀ (s : State) (f : Fault), s.fault = some f → step s = .next s

/-- 60_exceptions.md R162: a latched fault is left only by `reset()`: no sequence of steps and other host commands clears
or changes it (D10, log 19). That `set_key` and `clear()` act on a faulted machine is the model's choice (log 28), for
`load_program` the spec's D20 (log 24); that `clear()` is a host command is log 8 (DEDUCED). -/
def Obligations.OnlyResetClearsFault : Prop :=
  ∀ (s t : State) (f : Fault) (es : List Event), s.fault = some f → Event.reset ∉ es → s.driveAll es = .next t →
    t.fault = some f

/-- 60_exceptions.md R164, 20_memory.md R42: a fetch at `pc >= 0xFFF` latches `FetchOutOfBounds(pc)`; only the tick of
the step stands. The fault is the spec's decision D8, what it leaves D10 (log 19), a raise as a next state log 7, the inputs
used up log 1. -/
def Obligations.FetchPastMemoryFaults : Prop :=
  ∀ s : State, s.fault = none → 0xFFF ≤ s.pc.toNat →
    step s = .next { s.timerTick with fault := some (.fetchOutOfBounds s.pc) }.nextInput

/-- 60_exceptions.md R163: an illegal word latches `InvalidOpcode(word)`; only the tick of the step stands. What
a fault leaves is the spec's decision D10 (log 19), the numbers of the illegal sets D2 (log 17), a raise as a next state
log 7, the inputs used up log 1. -/
def Obligations.IllegalWordFaults : Prop :=
  ∀ (s : State) (w : Word), s.fault = none → s.pc.toNat + 1 ≤ 0xFFF →
    w = s.readByte s.pc.toNat ++ s.readByte (s.pc.toNat + 1) → Illegal w →
    step s = .next { s.timerTick with fault := some (.invalidOpcode w) }.nextInput

/-- Every step completes: no state makes the machine refuse or end outside its state (a fault is a latched state, log 7). -/
def Obligations.EveryStepAnswersNextState : Prop := ∀ s : State, ∃ t, step s = .next t

/-- 60_exceptions.md R161: a step that raises leaves everything as before it, except that the tick has taken place and
the latch is set. -/
def Obligations.FaultsArePrecise : Prop :=
  ∀ (s t : State) (f : Fault), s.fault = none → step s = .next t → t.fault = some f →
    t = { s.timerTick with fault := some f }.nextInput

/-- 10_state.md R15: `pc` after each instruction that does not raise, and after a step that raises. The latter is the spec's
decision D10 (log 19), a raise as a next state log 7. That the key skips compare all 8 bits is the spec's decision D13
(log 18), where the popped entry lies D23 (log 14). -/
def Obligations.ProgramCounterAfterInstruction : Prop :=
  (∀ s t : State, s.fault = none → step s = .next t → t.fault ≠ none → t.pc = s.pc) ∧
  ∀ (i : Instr) (s t : State), s.fault = none → exec i s = .next t → t.fault = none →
    t.pc =
      match i with
      | .jp addr => addr.setWidth 16
      | .call addr => addr.setWidth 16
      | .ret => s.stack[t.sp.val]?.getD 0#16
      | .jpV0 addr => addr.setWidth 16 + (s.reg 0).setWidth 16
      | .seImm x kk => if s.reg x = kk then s.pc + 4#16 else s.pc + 2#16
      | .sneImm x kk => if s.reg x ≠ kk then s.pc + 4#16 else s.pc + 2#16
      | .seReg x y => if s.reg x = s.reg y then s.pc + 4#16 else s.pc + 2#16
      | .sneReg x y => if s.reg x ≠ s.reg y then s.pc + 4#16 else s.pc + 2#16
      | .skp x => if s.key = some (s.reg x) then s.pc + 4#16 else s.pc + 2#16
      | .sknp x => if s.key ≠ some (s.reg x) then s.pc + 4#16 else s.pc + 2#16
      | .ldVxK _ => if s.key = none then s.pc else s.pc + 2#16
      | .cls | .sys _ | .ldImm _ _ | .addImm _ _ | .ldReg _ _ | .or _ _ | .and _ _ | .xor _ _ | .addReg _ _ | .sub _ _
      | .shr _ _ | .subn _ _ | .shl _ _ | .ldI _ | .rnd _ _ | .drw _ _ _ | .ldVxDT _ | .ldDTVx _ | .ldSTVx _ | .addI _
      | .ldF _ | .ldB _ | .storeRegs _ | .loadRegs _ => s.pc + 2#16

/-! ### Which instructions change which state, over all instructions -/

/-- 10_state.md R11, R12: no instruction writes a general register other than its destinations and, if it writes a flag,
`VF`. -/
def Obligations.RegistersWrittenOnlyAsDestinations : Prop :=
  ∀ (i : Instr) (s t : State), exec i s = .next t → ∀ r, ¬ MayWrite i r → t.reg r = s.reg r

/-- 10_state.md R12, R13: what a flag-writing instruction leaves in `VF`, when it does not raise, is 0 or 1. -/
def Obligations.FlagsAreZeroOrOne : Prop :=
  ∀ (i : Instr) (s t : State), WritesFlag i → s.fault = none → exec i s = .next t → t.fault = none →
    t.reg Reg.vf = 0#8 ∨ t.reg Reg.vf = 1#8

/-- 10_state.md R19: which instructions change `I`; block transfers only with the switch on. -/
def Obligations.OnlyIndexInstructionsWriteIndex : Prop :=
  ∀ (i : Instr) (s t : State), exec i s = .next t → t.index ≠ s.index →
    (∃ addr, i = .ldI addr) ∨ (∃ x, i = .addI x) ∨ (∃ x, i = .ldF x) ∨
    ((∃ x, i = .storeRegs x ∨ i = .loadRegs x) ∧ s.cfg.loadStoreIncrementsI = true)

/-- 10_state.md R20: only `CALL` and `RET` access the stack and `sp`; and `RET` changes no entry. -/
def Obligations.OnlyCallAndRetTouchTheStack : Prop :=
  ∀ (i : Instr) (s t : State), exec i s = .next t →
    (t.sp ≠ s.sp → i = .ret ∨ ∃ addr, i = .call addr) ∧ (t.stack ≠ s.stack → ∃ addr, i = .call addr)

/-- 10_state.md R23: only `CLS` and `DRW` write the framebuffer. -/
def Obligations.OnlyClsAndDrwWriteTheScreen : Prop :=
  ∀ (i : Instr) (s t : State), exec i s = .next t → t.fb ≠ s.fb → i = .cls ∨ ∃ x y n, i = .drw x y n

/-- 20_memory.md R47, R44: only `LD B` and `LD [I]` store to memory, and only to the run of bytes that starts at `I`. -/
def Obligations.OnlyStoresWriteMemory : Prop :=
  ∀ (i : Instr) (s t : State) (a : Nat), exec i s = .next t → t.readByte a ≠ s.readByte a →
    s.dataAddr ≤ a ∧ 0x050 ≤ a ∧ a ≤ 0xFFF ∧
      ((∃ x, i = .ldB x ∧ a < s.dataAddr + 3) ∨ ∃ x : Reg, i = .storeRegs x ∧ a < s.dataAddr + x.val + 1)

/-- 60_exceptions.md R177: only `SKP`, `SKNP` and `LD Vx, K` read the latch, and they leave it clear; no other instruction
changes it. -/
def Obligations.OnlyKeyInstructionsTouchTheLatch : Prop :=
  ∀ (i : Instr) (s t : State), exec i s = .next t →
    ((∃ x, i = .skp x ∨ i = .sknp x ∨ i = .ldVxK x) → t.key = none) ∧
    ((∀ x, i ≠ .skp x ∧ i ≠ .sknp x ∧ i ≠ .ldVxK x) → t.key = s.key)

/-- 60_exceptions.md R172: over a step that does not load the timer, `DT` (and so `ST`) never rises and falls by at most 1. -/
def Obligations.TimersFallByAtMostOneAStep : Prop :=
  ∀ s t : State, step s = .next t →
    ((∀ x, ¬ Executes s (.ldDTVx x)) → t.dt.toNat ≤ s.dt.toNat ∧ s.dt.toNat ≤ t.dt.toNat + 1) ∧
    ((∀ x, ¬ Executes s (.ldSTVx x)) → t.st.toNat ≤ s.st.toNat ∧ s.st.toNat ≤ t.st.toNat + 1)

/-! ### Control transfer -/

/-- 41_control_flow.md R90. -/
def Obligations.SysOnlyAdvances : Prop :=
  ∀ (addr : Addr12) (s : State), ∃ t, exec (.sys addr) s = .next t ∧ t.pc = s.pc + 2#16 ∧ Keeps [] [] s t

/-- 41_control_flow.md R91, R100. The sum of `JP V0, addr` is not reduced modulo 4096. -/
def Obligations.JumpsGoToTheirTargets : Prop :=
  (∀ (addr : Addr12) (s : State), ∃ t, exec (.jp addr) s = .next t ∧ t.pc.toNat = addr.toNat ∧ Keeps [] [] s t) ∧
  (∀ (addr : Addr12) (s : State), ∃ t, exec (.jpV0 addr) s = .next t ∧
    t.pc.toNat = addr.toNat + (s.reg 0).toNat ∧ Keeps [] [] s t)

/-- 41_control_flow.md R93. What the overflow leaves is the spec's decision D10 (log 19), where the entry lies D23 (log 14),
a raise as a next state log 7. -/
def Obligations.CallPushesAndJumps : Prop :=
  ∀ (addr : Addr12) (s : State),
    (s.sp.val < 16 → ∃ t, exec (.call addr) s = .next t ∧ t.pc.toNat = addr.toNat ∧ t.sp.val = s.sp.val + 1 ∧
      (∀ k : Fin 16, t.stack[k.val] = if k.val = s.sp.val then s.pc + 2#16 else s.stack[k.val]) ∧
      Keeps [.stack] [] s t) ∧
    (s.sp.val = 16 → exec (.call addr) s = .next { s with fault := some .stackOverflow })

/-- 41_control_flow.md R92. What the underflow leaves is the spec's decision D10 (log 19), where the entry lies D23 (log 14),
a raise as a next state log 7. -/
def Obligations.RetPopsIntoPc : Prop :=
  ∀ s : State,
    (s.sp.val ≠ 0 → ∃ t, exec .ret s = .next t ∧ s.stack[s.sp.val - 1]? = some t.pc ∧ t.sp.val + 1 = s.sp.val ∧
      t.stack = s.stack ∧ Keeps [.stack] [] s t) ∧
    (s.sp.val = 0 → exec .ret s = .next { s with fault := some .stackUnderflow })

/-- 41_control_flow.md R94, with nothing executed in between: `CALL` then `RET` comes back to the instruction after the call
with the stack pointer as before, and only the dead entry `stack[sp]` may differ (D23, log 14). -/
def Obligations.CallThenRetReturns : Prop :=
  ∀ (addr : Addr12) (s : State), s.sp.val < 16 →
    ∃ t u, exec (.call addr) s = .next t ∧ exec .ret t = .next u ∧ u.pc = s.pc + 2#16 ∧ u.sp = s.sp ∧
      (∀ k : Fin 16, k.val ≠ s.sp.val → u.stack[k.val] = s.stack[k.val]) ∧ Keeps [.stack] [] s u

/-- 41_control_flow.md R96 to R99. -/
def Obligations.SkipsCompareRegisters : Prop :=
  ∀ (x y : Reg) (kk : Byte) (s : State),
    (∃ t, exec (.seImm x kk) s = .next t ∧ t.pc = s.pc + (if s.reg x = kk then 4#16 else 2#16) ∧ Keeps [] [] s t) ∧
    (∃ t, exec (.sneImm x kk) s = .next t ∧ t.pc = s.pc + (if s.reg x = kk then 2#16 else 4#16) ∧ Keeps [] [] s t) ∧
    (∃ t, exec (.seReg x y) s = .next t ∧ t.pc = s.pc + (if s.reg x = s.reg y then 4#16 else 2#16) ∧ Keeps [] [] s t) ∧
    (∃ t, exec (.sneReg x y) s = .next t ∧ t.pc = s.pc + (if s.reg x = s.reg y then 2#16 else 4#16) ∧ Keeps [] [] s t)

/-! ### Load and arithmetic-logic -/

/-- 42_alu.md R110, R111: no flag, also for `x = 15`. -/
def Obligations.ImmediateLoadAndAdd : Prop :=
  ∀ (x : Reg) (kk : Byte) (s : State),
    (∃ t, exec (.ldImm x kk) s = .next t ∧ t.reg x = kk ∧ t.pc = s.pc + 2#16 ∧ Keeps [] [x] s t) ∧
    (∃ t, exec (.addImm x kk) s = .next t ∧ (t.reg x).toNat = ((s.reg x).toNat + kk.toNat) % 256 ∧
      t.pc = s.pc + 2#16 ∧ Keeps [] [x] s t)

/-- 42_alu.md R112 to R115: no flag. -/
def Obligations.MoveAndLogicSetNoFlag : Prop :=
  ∀ (x y : Reg) (s : State),
    (∃ t, exec (.ldReg x y) s = .next t ∧ t.reg x = s.reg y ∧ t.pc = s.pc + 2#16 ∧ Keeps [] [x] s t) ∧
    (∃ t, exec (.or x y) s = .next t ∧ t.reg x = (s.reg x ||| s.reg y) ∧ t.pc = s.pc + 2#16 ∧ Keeps [] [x] s t) ∧
    (∃ t, exec (.and x y) s = .next t ∧ t.reg x = (s.reg x &&& s.reg y) ∧ t.pc = s.pc + 2#16 ∧ Keeps [] [x] s t) ∧
    (∃ t, exec (.xor x y) s = .next t ∧ t.reg x = (s.reg x ^^^ s.reg y) ∧ t.pc = s.pc + 2#16 ∧ Keeps [] [x] s t)

/-- 42_alu.md R116, 10_state.md R13. The flag written last is the spec's decision D7 (log 18). -/
def Obligations.AddSetsCarry : Prop :=
  ∀ (x y : Reg) (s : State), ∃ t, exec (.addReg x y) s = .next t ∧
    (x ≠ Reg.vf → (t.reg x).toNat = ((s.reg x).toNat + (s.reg y).toNat) % 256) ∧
    t.reg Reg.vf = (if (s.reg x).toNat + (s.reg y).toNat > 255 then 1#8 else 0#8) ∧
    t.pc = s.pc + 2#16 ∧ Keeps [] [x, Reg.vf] s t

/-- 42_alu.md R117, R118, 10_state.md R13. The flag written last is the spec's decision D7 (log 18). -/
def Obligations.SubtractSetsNoBorrow : Prop :=
  ∀ (x y : Reg) (s : State),
    (∃ t, exec (.sub x y) s = .next t ∧
      (x ≠ Reg.vf → (t.reg x).toNat = ((s.reg x).toNat + 256 - (s.reg y).toNat) % 256) ∧
      t.reg Reg.vf = (if (s.reg x).toNat ≥ (s.reg y).toNat then 1#8 else 0#8) ∧
      t.pc = s.pc + 2#16 ∧ Keeps [] [x, Reg.vf] s t) ∧
    (∃ t, exec (.subn x y) s = .next t ∧
      (x ≠ Reg.vf → (t.reg x).toNat = ((s.reg y).toNat + 256 - (s.reg x).toNat) % 256) ∧
      t.reg Reg.vf = (if (s.reg y).toNat ≥ (s.reg x).toNat then 1#8 else 0#8) ∧
      t.pc = s.pc + 2#16 ∧ Keeps [] [x, Reg.vf] s t)

/-- 42_alu.md R119, R120, 10_state.md R13, for both values of `cfg.shift_uses_vy`. The flag written last is the spec's
decision D7 (log 18). -/
def Obligations.ShiftsMoveOneBitOut : Prop :=
  ∀ (x y : Reg) (s : State) (src : Byte), src = (if s.cfg.shiftUsesVy = true then s.reg y else s.reg x) →
    (∃ t, exec (.shr x y) s = .next t ∧ (x ≠ Reg.vf → (t.reg x).toNat = src.toNat / 2) ∧
      (t.reg Reg.vf).toNat = src.toNat % 2 ∧ t.pc = s.pc + 2#16 ∧ Keeps [] [x, Reg.vf] s t) ∧
    (∃ t, exec (.shl x y) s = .next t ∧ (x ≠ Reg.vf → (t.reg x).toNat = src.toNat * 2 % 256) ∧
      (t.reg Reg.vf).toNat = src.toNat / 128 ∧ t.pc = s.pc + 2#16 ∧ Keeps [] [x, Reg.vf] s t)

/-! ### Index register and memory -/

/-- 43_index_memory.md R130, R131: no flag, no wrap at 12 bits. -/
def Obligations.IndexLoadAndAdd : Prop :=
  (∀ (addr : Addr12) (s : State), ∃ t, exec (.ldI addr) s = .next t ∧ t.index.toNat = addr.toNat ∧
    t.pc = s.pc + 2#16 ∧ Keeps [.index] [] s t) ∧
  (∀ (x : Reg) (s : State), ∃ t, exec (.addI x) s = .next t ∧
    t.index.toNat = (s.index.toNat + (s.reg x).toNat) % 65536 ∧ t.pc = s.pc + 2#16 ∧ Keeps [.index] [] s t)

/-- 43_index_memory.md R133, for both values of `GLYPH_OVERRANGE`. -/
def Obligations.GlyphOffsetIsDigitTimesFive : Prop :=
  ∀ (x : Reg) (s : State), ∃ t, exec (.ldF x) s = .next t ∧
    ((s.reg x).toNat ≤ 15 → t.index.toNat = (s.reg x).toNat * 5) ∧
    ((s.reg x).toNat > 15 → s.cfg.glyphOverrange = .raw → t.index.toNat = (s.reg x).toNat * 5) ∧
    ((s.reg x).toNat > 15 → s.cfg.glyphOverrange = .mask → t.index.toNat = (s.reg x).toNat % 16 * 5) ∧
    t.pc = s.pc + 2#16 ∧ Keeps [.index] [] s t

/-- 43_index_memory.md R134: three digits at `I`, and nothing else stored; or the fault of the lowest failing address,
and nothing else changes (the spec's decisions D8, D9, D10: log 19; a raise as a next state: log 7). -/
def Obligations.BcdStoresThreeDigits : Prop :=
  ∀ (x : Reg) (s : State), s.memWf = true →
    (0x04F < s.dataAddr → s.dataAddr + 2 ≤ 0xFFF → ∃ t, exec (.ldB x) s = .next t ∧
      (t.readByte s.dataAddr).toNat = (s.reg x).toNat / 100 ∧
      (t.readByte (s.dataAddr + 1)).toNat = (s.reg x).toNat / 10 % 10 ∧
      (t.readByte (s.dataAddr + 2)).toNat = (s.reg x).toNat % 10 ∧
      (∀ a, a < s.dataAddr ∨ s.dataAddr + 3 ≤ a → t.readByte a = s.readByte a) ∧
      t.pc = s.pc + 2#16 ∧ Keeps [.memory] [] s t) ∧
    (s.dataAddr ≤ 0x04F → exec (.ldB x) s = .next { s with fault := some (.glyphTableWrite s.dataAddr) }) ∧
    (0xFFF < s.dataAddr + 2 →
      exec (.ldB x) s = .next { s with fault := some (.memoryOutOfBounds (max 0x1000 s.dataAddr)) })

/-- 43_index_memory.md R135, for both values of `cfg.load_store_increments_i`; or the fault of the lowest failing address,
and nothing else changes (the spec's decisions D8, D9, D10: log 19; a raise as a next state: log 7). -/
def Obligations.BlockStoreWritesRegisters : Prop :=
  ∀ (x : Reg) (s : State), s.memWf = true →
    (0x04F < s.dataAddr → s.dataAddr + x.val ≤ 0xFFF → ∃ t, exec (.storeRegs x) s = .next t ∧
      (∀ k : Reg, k ≤ x → t.readByte (s.dataAddr + k.val) = s.reg k) ∧
      (∀ a, a < s.dataAddr ∨ s.dataAddr + x.val + 1 ≤ a → t.readByte a = s.readByte a) ∧
      t.index.toNat = (if s.cfg.loadStoreIncrementsI = true then (s.index.toNat + x.val + 1) % 65536 else s.index.toNat) ∧
      t.pc = s.pc + 2#16 ∧ Keeps [.memory, .index] [] s t) ∧
    (s.dataAddr ≤ 0x04F → exec (.storeRegs x) s = .next { s with fault := some (.glyphTableWrite s.dataAddr) }) ∧
    (0xFFF < s.dataAddr + x.val →
      exec (.storeRegs x) s = .next { s with fault := some (.memoryOutOfBounds (max 0x1000 s.dataAddr)) })

/-- 43_index_memory.md R136, for both values of `cfg.load_store_increments_i`; the glyph table may be read; or the fault of
the lowest failing address, and nothing else changes (the spec's decisions D8, D10: log 19; a raise as a next state: log 7). -/
def Obligations.BlockLoadReadsRegisters : Prop :=
  ∀ (x : Reg) (s : State),
    (s.dataAddr + x.val ≤ 0xFFF → ∃ t, exec (.loadRegs x) s = .next t ∧
      (∀ k : Reg, k ≤ x → t.reg k = s.readByte (s.dataAddr + k.val)) ∧ (∀ k : Reg, x < k → t.reg k = s.reg k) ∧
      t.index.toNat = (if s.cfg.loadStoreIncrementsI = true then (s.index.toNat + x.val + 1) % 65536 else s.index.toNat) ∧
      t.pc = s.pc + 2#16 ∧ Keeps [.index] (List.finRange 16) s t) ∧
    (0xFFF < s.dataAddr + x.val →
      exec (.loadRegs x) s = .next { s with fault := some (.memoryOutOfBounds (max 0x1000 s.dataAddr)) })

/-- 20_memory.md R53, R48: the bytes a block store leaves are the words later fetches at those addresses read. -/
def Obligations.StoredBytesAreFetched : Prop :=
  ∀ (x : Reg) (s : State), s.memWf = true → 0x04F < s.dataAddr → s.dataAddr + x.val ≤ 0xFFF →
    ∃ t, exec (.storeRegs x) s = .next t ∧
      ∀ (k : Reg) (h : k.val + 1 < 16), k.val + 1 ≤ x.val →
        t.fetchWord (BitVec.ofNat 16 (s.dataAddr + k.val)) = .ok (s.reg k ++ s.reg ⟨k.val + 1, h⟩)

/-! ### Display -/

/-- 44_display.md R140. -/
def Obligations.ClsClearsTheScreen : Prop :=
  ∀ s : State, ∃ t, exec .cls s = .next t ∧ (∀ r c, t.pixel r c = false) ∧ t.pc = s.pc + 2#16 ∧ Keeps [.screen] [] s t

/-- 44_display.md R141, R142: a pixel changes exactly when a set bit of the sprite lands on it, and `VF` is 1 exactly when a
lit pixel went off; with `n = 0` nothing is drawn and `VF` is 0; or the fault of the lowest failing address, and nothing
else changes (the spec's decisions D8, D10: log 19; a raise as a next state: log 7). The old `VF` as a coordinate and the
flag written last are D7 (log 18). -/
def Obligations.DrawXorsTheSprite : Prop :=
  ∀ (x y : Reg) (n : Nibble) (s : State),
    (n.toNat = 0 ∨ s.dataAddr + n.toNat - 1 ≤ 0xFFF → ∃ t, exec (.drw x y n) s = .next t ∧
      (∀ r c, t.pixel r c ≠ s.pixel r c ↔ SpriteSets s (s.reg x) (s.reg y) n r c) ∧
      (t.reg Reg.vf = 1#8 ↔ ∃ r c, s.pixel r c = true ∧ SpriteSets s (s.reg x) (s.reg y) n r c) ∧
      (t.reg Reg.vf = 0#8 ∨ t.reg Reg.vf = 1#8) ∧
      t.pc = s.pc + 2#16 ∧ Keeps [.screen] [Reg.vf] s t) ∧
    (n.toNat ≠ 0 → 0xFFF < s.dataAddr + n.toNat - 1 →
      exec (.drw x y n) s = .next { s with fault := some (.memoryOutOfBounds (max 0x1000 s.dataAddr)) })

/-- 44_display.md R142, R143, R145: drawing the same sprite twice at the same place restores the framebuffer; the second
draw reports a collision exactly when a set bit of the sprite landed on a pixel that was off before the first; and where
none of its pixels was lit, the first draw reports none and the second one exactly when the sprite has a set bit. (R145's
last sentence leaves out that premise, without which R142 refutes it; log 27.) `VF` is no coordinate: it changes
between the draws. -/
def Obligations.DrawingTwiceRestoresTheScreen : Prop :=
  ∀ (x y : Reg) (n : Nibble) (s : State), x ≠ Reg.vf → y ≠ Reg.vf → (n.toNat = 0 ∨ s.dataAddr + n.toNat - 1 ≤ 0xFFF) →
    ∃ t u, exec (.drw x y n) s = .next t ∧ exec (.drw x y n) t = .next u ∧ (∀ r c, u.pixel r c = s.pixel r c) ∧
      (u.reg Reg.vf = 1#8 ↔ ∃ r c, s.pixel r c = false ∧ SpriteSets s (s.reg x) (s.reg y) n r c) ∧
      ((∀ r c, SpriteSets s (s.reg x) (s.reg y) n r c → s.pixel r c = false) →
        t.reg Reg.vf = 0#8 ∧
        (u.reg Reg.vf = 1#8 ↔ ∃ row col : Nat, row < n.toNat ∧ col < 8 ∧
          (s.readByte (s.dataAddr + row)).getLsbD col = true))

/-! ### Timers, keys, random -/

/-- 45_timer_key_random.md R150, R151, R152, on the state after the tick: the timer reference is not touched. -/
def Obligations.TimerLoadsAndReads : Prop :=
  ∀ (x : Reg) (s : State),
    (∃ t, exec (.ldVxDT x) s = .next t ∧ t.reg x = s.dt ∧ t.pc = s.pc + 2#16 ∧ Keeps [] [x] s t) ∧
    (∃ t, exec (.ldDTVx x) s = .next t ∧ t.dt = s.reg x ∧ t.pc = s.pc + 2#16 ∧ Keeps [.delay] [] s t) ∧
    (∃ t, exec (.ldSTVx x) s = .next t ∧ t.st = s.reg x ∧ t.pc = s.pc + 2#16 ∧ Keeps [.sound] [] s t)

/-- 40_step_cycle.md R81: the tick comes before the instruction, so `LD Vx, DT` reads the timer after this step's tick, and
what `LD DT, Vx` and `LD ST, Vx` write is not decremented by this step. -/
def Obligations.TickPrecedesTimerAccess : Prop :=
  ∀ (s : State) (x : Reg),
    (Executes s (.ldVxDT x) → ∃ t, step s = .next t ∧ t.reg x = t.dt ∧
      t.dt.toNat = s.dt.toNat - (if tickDue s.lastTick s.input.gate = true then 1 else 0)) ∧
    (Executes s (.ldDTVx x) → ∃ t, step s = .next t ∧ t.dt = s.reg x) ∧
    (Executes s (.ldSTVx x) → ∃ t, step s = .next t ∧ t.st = s.reg x)

/-- 60_exceptions.md R171: the tick of a step, with the gate open and with it closed; nothing but the two counters and the
gate's own reference changes. -/
def Obligations.TickCountsBothTimersDown : Prop :=
  ∀ s : State,
    (tickDue s.lastTick s.input.gate = true →
      s.timerTick.dt.toNat = s.dt.toNat - 1 ∧ s.timerTick.st.toNat = s.st.toNat - 1) ∧
    (tickDue s.lastTick s.input.gate = false → s.timerTick.dt = s.dt ∧ s.timerTick.st = s.st) ∧
    s.timerTick = { s with dt := s.timerTick.dt, st := s.timerTick.st, lastTick := s.timerTick.lastTick }

/-- 60_exceptions.md R173: two ticks of the concrete gate separated by less than 1/60 second decrement a counter by at
most 1 in total. The unit of time, the nanosecond, is the model's choice (log 2). -/
def Obligations.CloseTicksDecrementAtMostOnce : Prop :=
  ∀ (s s1 s2 : State) (now1 now2 : Nat) (r1 r2 : Byte), 60 * (now2 - now1) < 1000000000 →
    s1 = ({ s with schedule := [⟨.clock now1, r1⟩] } : State).timerTick →
    s2 = ({ s1 with schedule := [⟨.clock now2, r2⟩] } : State).timerTick →
    s.dt.toNat ≤ s2.dt.toNat + 1 ∧ s.st.toNat ≤ s2.st.toNat + 1

/-- 45_timer_key_random.md R153, R154: the key is consumed whether or not it matched. -/
def Obligations.KeySkipsConsumeTheKey : Prop :=
  ∀ (x : Reg) (s : State),
    (∃ t, exec (.skp x) s = .next t ∧ t.key = none ∧
      t.pc = s.pc + (if s.key = some (s.reg x) then 4#16 else 2#16) ∧ Keeps [.latch] [] s t) ∧
    (∃ t, exec (.sknp x) s = .next t ∧ t.key = none ∧
      t.pc = s.pc + (if s.key = some (s.reg x) then 2#16 else 4#16) ∧ Keeps [.latch] [] s t)

/-- 45_timer_key_random.md R155: with a key pending it is taken; with none, nothing changes, `pc` included, and the step
reports `WaitingForInput` (an output by the spec's decision D21: log 11). -/
def Obligations.KeyWaitTakesOrRepeats : Prop :=
  ∀ (x : Reg) (s : State),
    (∀ k, s.key = some k → ∃ t, exec (.ldVxK x) s = .next t ∧ t.reg x = k ∧ t.key = none ∧ t.pc = s.pc + 2#16 ∧
      Keeps [.latch] [x] s t) ∧
    (s.key = none → exec (.ldVxK x) s = .next s ∧ (Executes s (.ldVxK x) → s.stepStatus = .waitingForInput))

/-- 40_step_cycle.md R85, R86, 70_reset_and_hazards.md R207: a step that finds `LD Vx, K` and no key only ticks the
timers, reports `WaitingForInput`, and no other step reports it. -/
def Obligations.WaitingStepOnlyTicks : Prop :=
  ∀ s : State,
    (∀ x, Executes s (.ldVxK x) → s.key = none →
      step s = .next s.timerTick.nextInput ∧ s.stepStatus = .waitingForInput) ∧
    (s.stepStatus = .waitingForInput → s.key = none ∧ ∃ x, Executes s (.ldVxK x))

/-- 45_timer_key_random.md R156, for every value of the step's `rand_byte`. -/
def Obligations.RandomByteIsMasked : Prop :=
  ∀ (x : Reg) (kk : Byte) (s : State), ∃ t, exec (.rnd x kk) s = .next t ∧ t.reg x = s.input.rand &&& kk ∧
    t.pc = s.pc + 2#16 ∧ Keeps [] [x] s t

/-- 10_state.md R24, 60_exceptions.md R184: no instruction reads `ST`: changing it before an instruction changes nothing
after it but `ST` itself, and not even that where the instruction loads `ST`. -/
def Obligations.SoundTimerIsNeverRead : Prop :=
  ∀ (i : Instr) (s t : State) (b : Byte), exec i s = .next t →
    ((∃ x, i = .ldSTVx x) → exec i { s with st := b } = .next t) ∧
    ((∀ x, i ≠ .ldSTVx x) → exec i { s with st := b } = .next { t with st := b })

/-- 00_scope.md R2, 43_index_memory.md R137: `cfg.shift_uses_vy` concerns only the two shifts, and
`cfg.load_store_increments_i` only the two block transfers. -/
def Obligations.SwitchesConcernOnlyTheirFamilies : Prop :=
  ∀ (i : Instr) (s t : State) (b : Bool), exec i s = .next t →
    ((∀ x y, i ≠ .shr x y ∧ i ≠ .shl x y) →
      exec i { s with cfg.shiftUsesVy := b } = .next { t with cfg.shiftUsesVy := b }) ∧
    ((∀ x, i ≠ .storeRegs x ∧ i ≠ .loadRegs x) →
      exec i { s with cfg.loadStoreIncrementsI := b } = .next { t with cfg.loadStoreIncrementsI := b })

/-! ### Host commands -/

/-- 70_reset_and_hazards.md R195, 60_exceptions.md R176: `clear()` zeroes 0x200 to 0xFFF and changes nothing else; `set_key`
replaces the latch and changes nothing else.
This is said of faulted states too, where acting is the model's choice (log 28); that `clear()` is a host command is log 8
(DEDUCED). -/
def Obligations.ClearAndSetKeyChangeNothingElse : Prop :=
  ∀ (s : State) (k : Option Byte),
    (∀ a, 0x200 ≤ a → a ≤ 0xFFF → s.clearProgram.readByte a = 0#8) ∧
    (∀ a, a < 0x200 → s.clearProgram.readByte a = s.readByte a) ∧
    s.clearProgram.pc = s.pc ∧ Keeps [.memory] [] s s.clearProgram ∧
    (s.setKey k).key = k ∧ (s.setKey k).pc = s.pc ∧ Keeps [.latch] [] s (s.setKey k)

/-- 70_reset_and_hazards.md R196, R197: a load of at most 3583 bytes writes them from 0x200 on and changes no other byte
and nothing else, and its first two bytes are what a fetch at 0x200 reads, big-endian; a longer one changes nothing and
reports its length. -/
def Obligations.LoadProgramWritesMemoryOnly : Prop :=
  ∀ (s t : State) (bytes : List Byte) (r : LoadResult), s.memWf = true → s.loadProgram bytes = (t, r) →
    (bytes.length ≤ 3583 → r = .ok ∧ (∀ k (h : k < bytes.length), t.readByte (0x200 + k) = bytes[k]) ∧
      (∀ a, a < 0x200 ∨ 0x200 + bytes.length ≤ a → t.readByte a = s.readByte a) ∧ t.pc = s.pc ∧ Keeps [.memory] [] s t ∧
      ∀ b0 b1 rest, bytes = b0 :: b1 :: rest → t.fetchWord 0x200#16 = .ok (b0 ++ b1)) ∧
    (3583 < bytes.length → r = .programTooLarge bytes.length ∧ t = s)

/-- 70_reset_and_hazards.md R200: entry `i` of the 2048 booleans is `fb[i div 64][i mod 64]`. -/
def Obligations.FramebufferReadIsRowMajor : Prop :=
  ∀ s : State, s.framebufferRead.length = 2048 ∧
    ∀ (r : Fin 32) (c : Fin 64), s.framebufferRead[r.val * 64 + c.val]? = some (s.pixel r c)

/-- 70_reset_and_hazards.md R206: from a finished run's state a step changes only the timers (and uses up its inputs). -/
def Obligations.FinishedRunOnlyTicks : Prop := ∀ s : State, s.finished = true → step s = .next s.timerTick.nextInput
end

