-- ==== Sys2Proof/Laws/State.lean ====
section
/-!
SUPPORT. What each update of the state does to each field, and what the readers see after it: one lemma per field and
update, each true by definition, so that no proof unfolds a record update.
-/

namespace Sys2Proof.Machine

variable (s : State)

/-! ### `setReg` -/

@[simp] theorem State.setReg_v (x : Reg) (b : Byte) : (s.setReg x b).v = s.v.set x.val b x.isLt := rfl
@[simp] theorem State.setReg_index (x : Reg) (b : Byte) : (s.setReg x b).index = s.index := rfl
@[simp] theorem State.setReg_pc (x : Reg) (b : Byte) : (s.setReg x b).pc = s.pc := rfl
@[simp] theorem State.setReg_sp (x : Reg) (b : Byte) : (s.setReg x b).sp = s.sp := rfl
@[simp] theorem State.setReg_stack (x : Reg) (b : Byte) : (s.setReg x b).stack = s.stack := rfl
@[simp] theorem State.setReg_mem (x : Reg) (b : Byte) : (s.setReg x b).mem = s.mem := rfl
@[simp] theorem State.setReg_fb (x : Reg) (b : Byte) : (s.setReg x b).fb = s.fb := rfl
@[simp] theorem State.setReg_dt (x : Reg) (b : Byte) : (s.setReg x b).dt = s.dt := rfl
@[simp] theorem State.setReg_st (x : Reg) (b : Byte) : (s.setReg x b).st = s.st := rfl
@[simp] theorem State.setReg_lastTick (x : Reg) (b : Byte) : (s.setReg x b).lastTick = s.lastTick := rfl
@[simp] theorem State.setReg_key (x : Reg) (b : Byte) : (s.setReg x b).key = s.key := rfl
@[simp] theorem State.setReg_cfg (x : Reg) (b : Byte) : (s.setReg x b).cfg = s.cfg := rfl
@[simp] theorem State.setReg_fault (x : Reg) (b : Byte) : (s.setReg x b).fault = s.fault := rfl
@[simp] theorem State.setReg_schedule (x : Reg) (b : Byte) : (s.setReg x b).schedule = s.schedule := rfl
@[simp] theorem State.setReg_stepNo (x : Reg) (b : Byte) : (s.setReg x b).stepNo = s.stepNo := rfl
@[simp] theorem State.setReg_readByte (x : Reg) (b : Byte) (d : Nat) : (s.setReg x b).readByte d = s.readByte d := rfl
@[simp] theorem State.setReg_pixel (x : Reg) (b : Byte) (r : Fin 32) (d : Fin 64) : (s.setReg x b).pixel r d = s.pixel r d := rfl
@[simp] theorem State.setReg_input (x : Reg) (b : Byte) : (s.setReg x b).input = s.input := rfl

/-! ### `setIndex` -/

@[simp] theorem State.setIndex_v (a : Word) : (s.setIndex a).v = s.v := rfl
@[simp] theorem State.setIndex_index (a : Word) : (s.setIndex a).index = a := rfl
@[simp] theorem State.setIndex_pc (a : Word) : (s.setIndex a).pc = s.pc := rfl
@[simp] theorem State.setIndex_sp (a : Word) : (s.setIndex a).sp = s.sp := rfl
@[simp] theorem State.setIndex_stack (a : Word) : (s.setIndex a).stack = s.stack := rfl
@[simp] theorem State.setIndex_mem (a : Word) : (s.setIndex a).mem = s.mem := rfl
@[simp] theorem State.setIndex_fb (a : Word) : (s.setIndex a).fb = s.fb := rfl
@[simp] theorem State.setIndex_dt (a : Word) : (s.setIndex a).dt = s.dt := rfl
@[simp] theorem State.setIndex_st (a : Word) : (s.setIndex a).st = s.st := rfl
@[simp] theorem State.setIndex_lastTick (a : Word) : (s.setIndex a).lastTick = s.lastTick := rfl
@[simp] theorem State.setIndex_key (a : Word) : (s.setIndex a).key = s.key := rfl
@[simp] theorem State.setIndex_cfg (a : Word) : (s.setIndex a).cfg = s.cfg := rfl
@[simp] theorem State.setIndex_fault (a : Word) : (s.setIndex a).fault = s.fault := rfl
@[simp] theorem State.setIndex_schedule (a : Word) : (s.setIndex a).schedule = s.schedule := rfl
@[simp] theorem State.setIndex_stepNo (a : Word) : (s.setIndex a).stepNo = s.stepNo := rfl
@[simp] theorem State.setIndex_reg (a : Word) (r : Reg) : (s.setIndex a).reg r = s.reg r := rfl
@[simp] theorem State.setIndex_readByte (a : Word) (d : Nat) : (s.setIndex a).readByte d = s.readByte d := rfl
@[simp] theorem State.setIndex_pixel (a : Word) (r : Fin 32) (d : Fin 64) : (s.setIndex a).pixel r d = s.pixel r d := rfl
@[simp] theorem State.setIndex_input (a : Word) : (s.setIndex a).input = s.input := rfl

/-! ### `jump` -/

@[simp] theorem State.jump_v (a : Word) : (s.jump a).v = s.v := rfl
@[simp] theorem State.jump_index (a : Word) : (s.jump a).index = s.index := rfl
@[simp] theorem State.jump_pc (a : Word) : (s.jump a).pc = a := rfl
@[simp] theorem State.jump_sp (a : Word) : (s.jump a).sp = s.sp := rfl
@[simp] theorem State.jump_stack (a : Word) : (s.jump a).stack = s.stack := rfl
@[simp] theorem State.jump_mem (a : Word) : (s.jump a).mem = s.mem := rfl
@[simp] theorem State.jump_fb (a : Word) : (s.jump a).fb = s.fb := rfl
@[simp] theorem State.jump_dt (a : Word) : (s.jump a).dt = s.dt := rfl
@[simp] theorem State.jump_st (a : Word) : (s.jump a).st = s.st := rfl
@[simp] theorem State.jump_lastTick (a : Word) : (s.jump a).lastTick = s.lastTick := rfl
@[simp] theorem State.jump_key (a : Word) : (s.jump a).key = s.key := rfl
@[simp] theorem State.jump_cfg (a : Word) : (s.jump a).cfg = s.cfg := rfl
@[simp] theorem State.jump_fault (a : Word) : (s.jump a).fault = s.fault := rfl
@[simp] theorem State.jump_schedule (a : Word) : (s.jump a).schedule = s.schedule := rfl
@[simp] theorem State.jump_stepNo (a : Word) : (s.jump a).stepNo = s.stepNo := rfl
@[simp] theorem State.jump_reg (a : Word) (r : Reg) : (s.jump a).reg r = s.reg r := rfl
@[simp] theorem State.jump_readByte (a : Word) (d : Nat) : (s.jump a).readByte d = s.readByte d := rfl
@[simp] theorem State.jump_pixel (a : Word) (r : Fin 32) (d : Fin 64) : (s.jump a).pixel r d = s.pixel r d := rfl
@[simp] theorem State.jump_input (a : Word) : (s.jump a).input = s.input := rfl

/-! ### `advance` -/

@[simp] theorem State.advance_v : (s.advance).v = s.v := rfl
@[simp] theorem State.advance_index : (s.advance).index = s.index := rfl
@[simp] theorem State.advance_pc : (s.advance).pc = s.pc + 2#16 := rfl
@[simp] theorem State.advance_sp : (s.advance).sp = s.sp := rfl
@[simp] theorem State.advance_stack : (s.advance).stack = s.stack := rfl
@[simp] theorem State.advance_mem : (s.advance).mem = s.mem := rfl
@[simp] theorem State.advance_fb : (s.advance).fb = s.fb := rfl
@[simp] theorem State.advance_dt : (s.advance).dt = s.dt := rfl
@[simp] theorem State.advance_st : (s.advance).st = s.st := rfl
@[simp] theorem State.advance_lastTick : (s.advance).lastTick = s.lastTick := rfl
@[simp] theorem State.advance_key : (s.advance).key = s.key := rfl
@[simp] theorem State.advance_cfg : (s.advance).cfg = s.cfg := rfl
@[simp] theorem State.advance_fault : (s.advance).fault = s.fault := rfl
@[simp] theorem State.advance_schedule : (s.advance).schedule = s.schedule := rfl
@[simp] theorem State.advance_stepNo : (s.advance).stepNo = s.stepNo := rfl
@[simp] theorem State.advance_reg (r : Reg) : (s.advance).reg r = s.reg r := rfl
@[simp] theorem State.advance_readByte (d : Nat) : (s.advance).readByte d = s.readByte d := rfl
@[simp] theorem State.advance_pixel (r : Fin 32) (d : Fin 64) : (s.advance).pixel r d = s.pixel r d := rfl
@[simp] theorem State.advance_input : (s.advance).input = s.input := rfl

/-! ### `skipIf` -/

@[simp] theorem State.skipIf_v (c : Bool) : (s.skipIf c).v = s.v := rfl
@[simp] theorem State.skipIf_index (c : Bool) : (s.skipIf c).index = s.index := rfl
@[simp] theorem State.skipIf_pc (c : Bool) : (s.skipIf c).pc = if c then s.pc + 4#16 else s.pc + 2#16 := rfl
@[simp] theorem State.skipIf_sp (c : Bool) : (s.skipIf c).sp = s.sp := rfl
@[simp] theorem State.skipIf_stack (c : Bool) : (s.skipIf c).stack = s.stack := rfl
@[simp] theorem State.skipIf_mem (c : Bool) : (s.skipIf c).mem = s.mem := rfl
@[simp] theorem State.skipIf_fb (c : Bool) : (s.skipIf c).fb = s.fb := rfl
@[simp] theorem State.skipIf_dt (c : Bool) : (s.skipIf c).dt = s.dt := rfl
@[simp] theorem State.skipIf_st (c : Bool) : (s.skipIf c).st = s.st := rfl
@[simp] theorem State.skipIf_lastTick (c : Bool) : (s.skipIf c).lastTick = s.lastTick := rfl
@[simp] theorem State.skipIf_key (c : Bool) : (s.skipIf c).key = s.key := rfl
@[simp] theorem State.skipIf_cfg (c : Bool) : (s.skipIf c).cfg = s.cfg := rfl
@[simp] theorem State.skipIf_fault (c : Bool) : (s.skipIf c).fault = s.fault := rfl
@[simp] theorem State.skipIf_schedule (c : Bool) : (s.skipIf c).schedule = s.schedule := rfl
@[simp] theorem State.skipIf_stepNo (c : Bool) : (s.skipIf c).stepNo = s.stepNo := rfl
@[simp] theorem State.skipIf_reg (c : Bool) (r : Reg) : (s.skipIf c).reg r = s.reg r := rfl
@[simp] theorem State.skipIf_readByte (c : Bool) (d : Nat) : (s.skipIf c).readByte d = s.readByte d := rfl
@[simp] theorem State.skipIf_pixel (c : Bool) (r : Fin 32) (d : Fin 64) : (s.skipIf c).pixel r d = s.pixel r d := rfl
@[simp] theorem State.skipIf_input (c : Bool) : (s.skipIf c).input = s.input := rfl

/-! ### `writeByte` -/

@[simp] theorem State.writeByte_v (a : Nat) (b : Byte) : (s.writeByte a b).v = s.v := rfl
@[simp] theorem State.writeByte_index (a : Nat) (b : Byte) : (s.writeByte a b).index = s.index := rfl
@[simp] theorem State.writeByte_pc (a : Nat) (b : Byte) : (s.writeByte a b).pc = s.pc := rfl
@[simp] theorem State.writeByte_sp (a : Nat) (b : Byte) : (s.writeByte a b).sp = s.sp := rfl
@[simp] theorem State.writeByte_stack (a : Nat) (b : Byte) : (s.writeByte a b).stack = s.stack := rfl
@[simp] theorem State.writeByte_mem (a : Nat) (b : Byte) : (s.writeByte a b).mem = Memory.write s.cfg.glyphs s.mem a b := rfl
@[simp] theorem State.writeByte_fb (a : Nat) (b : Byte) : (s.writeByte a b).fb = s.fb := rfl
@[simp] theorem State.writeByte_dt (a : Nat) (b : Byte) : (s.writeByte a b).dt = s.dt := rfl
@[simp] theorem State.writeByte_st (a : Nat) (b : Byte) : (s.writeByte a b).st = s.st := rfl
@[simp] theorem State.writeByte_lastTick (a : Nat) (b : Byte) : (s.writeByte a b).lastTick = s.lastTick := rfl
@[simp] theorem State.writeByte_key (a : Nat) (b : Byte) : (s.writeByte a b).key = s.key := rfl
@[simp] theorem State.writeByte_cfg (a : Nat) (b : Byte) : (s.writeByte a b).cfg = s.cfg := rfl
@[simp] theorem State.writeByte_fault (a : Nat) (b : Byte) : (s.writeByte a b).fault = s.fault := rfl
@[simp] theorem State.writeByte_schedule (a : Nat) (b : Byte) : (s.writeByte a b).schedule = s.schedule := rfl
@[simp] theorem State.writeByte_stepNo (a : Nat) (b : Byte) : (s.writeByte a b).stepNo = s.stepNo := rfl
@[simp] theorem State.writeByte_reg (a : Nat) (b : Byte) (r : Reg) : (s.writeByte a b).reg r = s.reg r := rfl
@[simp] theorem State.writeByte_pixel (a : Nat) (b : Byte) (r : Fin 32) (d : Fin 64) : (s.writeByte a b).pixel r d = s.pixel r d := rfl
@[simp] theorem State.writeByte_input (a : Nat) (b : Byte) : (s.writeByte a b).input = s.input := rfl

/-! ### `push` -/

@[simp] theorem State.push_v (w : Word) (h : s.sp.val < 16) : (s.push w h).v = s.v := rfl
@[simp] theorem State.push_index (w : Word) (h : s.sp.val < 16) : (s.push w h).index = s.index := rfl
@[simp] theorem State.push_pc (w : Word) (h : s.sp.val < 16) : (s.push w h).pc = s.pc := rfl
@[simp] theorem State.push_stack (w : Word) (h : s.sp.val < 16) : (s.push w h).stack = s.stack.set s.sp.val w h := rfl
@[simp] theorem State.push_mem (w : Word) (h : s.sp.val < 16) : (s.push w h).mem = s.mem := rfl
@[simp] theorem State.push_fb (w : Word) (h : s.sp.val < 16) : (s.push w h).fb = s.fb := rfl
@[simp] theorem State.push_dt (w : Word) (h : s.sp.val < 16) : (s.push w h).dt = s.dt := rfl
@[simp] theorem State.push_st (w : Word) (h : s.sp.val < 16) : (s.push w h).st = s.st := rfl
@[simp] theorem State.push_lastTick (w : Word) (h : s.sp.val < 16) : (s.push w h).lastTick = s.lastTick := rfl
@[simp] theorem State.push_key (w : Word) (h : s.sp.val < 16) : (s.push w h).key = s.key := rfl
@[simp] theorem State.push_cfg (w : Word) (h : s.sp.val < 16) : (s.push w h).cfg = s.cfg := rfl
@[simp] theorem State.push_fault (w : Word) (h : s.sp.val < 16) : (s.push w h).fault = s.fault := rfl
@[simp] theorem State.push_schedule (w : Word) (h : s.sp.val < 16) : (s.push w h).schedule = s.schedule := rfl
@[simp] theorem State.push_stepNo (w : Word) (h : s.sp.val < 16) : (s.push w h).stepNo = s.stepNo := rfl
@[simp] theorem State.push_reg (w : Word) (h : s.sp.val < 16) (r : Reg) : (s.push w h).reg r = s.reg r := rfl
@[simp] theorem State.push_readByte (w : Word) (h : s.sp.val < 16) (d : Nat) : (s.push w h).readByte d = s.readByte d := rfl
@[simp] theorem State.push_pixel (w : Word) (h : s.sp.val < 16) (r : Fin 32) (d : Fin 64) : (s.push w h).pixel r d = s.pixel r d := rfl
@[simp] theorem State.push_input (w : Word) (h : s.sp.val < 16) : (s.push w h).input = s.input := rfl

/-! ### `pop` -/

@[simp] theorem State.pop_v : (s.pop.2).v = s.v := rfl
@[simp] theorem State.pop_index : (s.pop.2).index = s.index := rfl
@[simp] theorem State.pop_pc : (s.pop.2).pc = s.pc := rfl
@[simp] theorem State.pop_stack : (s.pop.2).stack = s.stack := rfl
@[simp] theorem State.pop_mem : (s.pop.2).mem = s.mem := rfl
@[simp] theorem State.pop_fb : (s.pop.2).fb = s.fb := rfl
@[simp] theorem State.pop_dt : (s.pop.2).dt = s.dt := rfl
@[simp] theorem State.pop_st : (s.pop.2).st = s.st := rfl
@[simp] theorem State.pop_lastTick : (s.pop.2).lastTick = s.lastTick := rfl
@[simp] theorem State.pop_key : (s.pop.2).key = s.key := rfl
@[simp] theorem State.pop_cfg : (s.pop.2).cfg = s.cfg := rfl
@[simp] theorem State.pop_fault : (s.pop.2).fault = s.fault := rfl
@[simp] theorem State.pop_schedule : (s.pop.2).schedule = s.schedule := rfl
@[simp] theorem State.pop_stepNo : (s.pop.2).stepNo = s.stepNo := rfl
@[simp] theorem State.pop_reg (r : Reg) : (s.pop.2).reg r = s.reg r := rfl
@[simp] theorem State.pop_readByte (d : Nat) : (s.pop.2).readByte d = s.readByte d := rfl
@[simp] theorem State.pop_pixel (r : Fin 32) (d : Fin 64) : (s.pop.2).pixel r d = s.pixel r d := rfl
@[simp] theorem State.pop_input : (s.pop.2).input = s.input := rfl

/-! ### `clearProgram` -/

@[simp] theorem State.clearProgram_v : (s.clearProgram).v = s.v := rfl
@[simp] theorem State.clearProgram_index : (s.clearProgram).index = s.index := rfl
@[simp] theorem State.clearProgram_pc : (s.clearProgram).pc = s.pc := rfl
@[simp] theorem State.clearProgram_sp : (s.clearProgram).sp = s.sp := rfl
@[simp] theorem State.clearProgram_stack : (s.clearProgram).stack = s.stack := rfl
@[simp] theorem State.clearProgram_fb : (s.clearProgram).fb = s.fb := rfl
@[simp] theorem State.clearProgram_dt : (s.clearProgram).dt = s.dt := rfl
@[simp] theorem State.clearProgram_st : (s.clearProgram).st = s.st := rfl
@[simp] theorem State.clearProgram_lastTick : (s.clearProgram).lastTick = s.lastTick := rfl
@[simp] theorem State.clearProgram_key : (s.clearProgram).key = s.key := rfl
@[simp] theorem State.clearProgram_cfg : (s.clearProgram).cfg = s.cfg := rfl
@[simp] theorem State.clearProgram_fault : (s.clearProgram).fault = s.fault := rfl
@[simp] theorem State.clearProgram_schedule : (s.clearProgram).schedule = s.schedule := rfl
@[simp] theorem State.clearProgram_stepNo : (s.clearProgram).stepNo = s.stepNo := rfl
@[simp] theorem State.clearProgram_reg (r : Reg) : (s.clearProgram).reg r = s.reg r := rfl
@[simp] theorem State.clearProgram_pixel (r : Fin 32) (d : Fin 64) : (s.clearProgram).pixel r d = s.pixel r d := rfl
@[simp] theorem State.clearProgram_input : (s.clearProgram).input = s.input := rfl

/-! ### `nextInput` -/

@[simp] theorem State.nextInput_v : (s.nextInput).v = s.v := rfl
@[simp] theorem State.nextInput_index : (s.nextInput).index = s.index := rfl
@[simp] theorem State.nextInput_pc : (s.nextInput).pc = s.pc := rfl
@[simp] theorem State.nextInput_sp : (s.nextInput).sp = s.sp := rfl
@[simp] theorem State.nextInput_stack : (s.nextInput).stack = s.stack := rfl
@[simp] theorem State.nextInput_mem : (s.nextInput).mem = s.mem := rfl
@[simp] theorem State.nextInput_fb : (s.nextInput).fb = s.fb := rfl
@[simp] theorem State.nextInput_dt : (s.nextInput).dt = s.dt := rfl
@[simp] theorem State.nextInput_st : (s.nextInput).st = s.st := rfl
@[simp] theorem State.nextInput_lastTick : (s.nextInput).lastTick = s.lastTick := rfl
@[simp] theorem State.nextInput_key : (s.nextInput).key = s.key := rfl
@[simp] theorem State.nextInput_cfg : (s.nextInput).cfg = s.cfg := rfl
@[simp] theorem State.nextInput_fault : (s.nextInput).fault = s.fault := rfl
@[simp] theorem State.nextInput_schedule : (s.nextInput).schedule = s.schedule.tail := rfl
@[simp] theorem State.nextInput_stepNo : (s.nextInput).stepNo = s.stepNo + 1 := rfl
@[simp] theorem State.nextInput_reg (r : Reg) : (s.nextInput).reg r = s.reg r := rfl
@[simp] theorem State.nextInput_readByte (d : Nat) : (s.nextInput).readByte d = s.readByte d := rfl
@[simp] theorem State.nextInput_pixel (r : Fin 32) (d : Fin 64) : (s.nextInput).pixel r d = s.pixel r d := rfl

/-! ### `setFlag` -/

@[simp] theorem State.setFlag_index (c : Bool) : (s.setFlag c).index = s.index := rfl
@[simp] theorem State.setFlag_pc (c : Bool) : (s.setFlag c).pc = s.pc := rfl
@[simp] theorem State.setFlag_sp (c : Bool) : (s.setFlag c).sp = s.sp := rfl
@[simp] theorem State.setFlag_stack (c : Bool) : (s.setFlag c).stack = s.stack := rfl
@[simp] theorem State.setFlag_mem (c : Bool) : (s.setFlag c).mem = s.mem := rfl
@[simp] theorem State.setFlag_fb (c : Bool) : (s.setFlag c).fb = s.fb := rfl
@[simp] theorem State.setFlag_dt (c : Bool) : (s.setFlag c).dt = s.dt := rfl
@[simp] theorem State.setFlag_st (c : Bool) : (s.setFlag c).st = s.st := rfl
@[simp] theorem State.setFlag_lastTick (c : Bool) : (s.setFlag c).lastTick = s.lastTick := rfl
@[simp] theorem State.setFlag_key (c : Bool) : (s.setFlag c).key = s.key := rfl
@[simp] theorem State.setFlag_cfg (c : Bool) : (s.setFlag c).cfg = s.cfg := rfl
@[simp] theorem State.setFlag_fault (c : Bool) : (s.setFlag c).fault = s.fault := rfl
@[simp] theorem State.setFlag_schedule (c : Bool) : (s.setFlag c).schedule = s.schedule := rfl
@[simp] theorem State.setFlag_stepNo (c : Bool) : (s.setFlag c).stepNo = s.stepNo := rfl
@[simp] theorem State.setFlag_readByte (c : Bool) (d : Nat) : (s.setFlag c).readByte d = s.readByte d := rfl
@[simp] theorem State.setFlag_pixel (c : Bool) (r : Fin 32) (d : Fin 64) : (s.setFlag c).pixel r d = s.pixel r d := rfl
@[simp] theorem State.setFlag_input (c : Bool) : (s.setFlag c).input = s.input := rfl

/-! ### `setResultAndFlag` -/

@[simp] theorem State.setResultAndFlag_index (x : Reg) (b : Byte) (c : Bool) : (s.setResultAndFlag x b c).index = s.index := rfl
@[simp] theorem State.setResultAndFlag_pc (x : Reg) (b : Byte) (c : Bool) : (s.setResultAndFlag x b c).pc = s.pc := rfl
@[simp] theorem State.setResultAndFlag_sp (x : Reg) (b : Byte) (c : Bool) : (s.setResultAndFlag x b c).sp = s.sp := rfl
@[simp] theorem State.setResultAndFlag_stack (x : Reg) (b : Byte) (c : Bool) : (s.setResultAndFlag x b c).stack = s.stack := rfl
@[simp] theorem State.setResultAndFlag_mem (x : Reg) (b : Byte) (c : Bool) : (s.setResultAndFlag x b c).mem = s.mem := rfl
@[simp] theorem State.setResultAndFlag_fb (x : Reg) (b : Byte) (c : Bool) : (s.setResultAndFlag x b c).fb = s.fb := rfl
@[simp] theorem State.setResultAndFlag_dt (x : Reg) (b : Byte) (c : Bool) : (s.setResultAndFlag x b c).dt = s.dt := rfl
@[simp] theorem State.setResultAndFlag_st (x : Reg) (b : Byte) (c : Bool) : (s.setResultAndFlag x b c).st = s.st := rfl
@[simp] theorem State.setResultAndFlag_lastTick (x : Reg) (b : Byte) (c : Bool) : (s.setResultAndFlag x b c).lastTick = s.lastTick := rfl
@[simp] theorem State.setResultAndFlag_key (x : Reg) (b : Byte) (c : Bool) : (s.setResultAndFlag x b c).key = s.key := rfl
@[simp] theorem State.setResultAndFlag_cfg (x : Reg) (b : Byte) (c : Bool) : (s.setResultAndFlag x b c).cfg = s.cfg := rfl
@[simp] theorem State.setResultAndFlag_fault (x : Reg) (b : Byte) (c : Bool) : (s.setResultAndFlag x b c).fault = s.fault := rfl
@[simp] theorem State.setResultAndFlag_schedule (x : Reg) (b : Byte) (c : Bool) : (s.setResultAndFlag x b c).schedule = s.schedule := rfl
@[simp] theorem State.setResultAndFlag_stepNo (x : Reg) (b : Byte) (c : Bool) : (s.setResultAndFlag x b c).stepNo = s.stepNo := rfl
@[simp] theorem State.setResultAndFlag_readByte (x : Reg) (b : Byte) (c : Bool) (d : Nat) : (s.setResultAndFlag x b c).readByte d = s.readByte d := rfl
@[simp] theorem State.setResultAndFlag_pixel (x : Reg) (b : Byte) (c : Bool) (r : Fin 32) (d : Fin 64) : (s.setResultAndFlag x b c).pixel r d = s.pixel r d := rfl
@[simp] theorem State.setResultAndFlag_input (x : Reg) (b : Byte) (c : Bool) : (s.setResultAndFlag x b c).input = s.input := rfl

/-! ### `loadRegRun` -/

@[simp] theorem State.loadRegRun_index (a : Nat) (x : Reg) : (s.loadRegRun a x).index = s.index := rfl
@[simp] theorem State.loadRegRun_pc (a : Nat) (x : Reg) : (s.loadRegRun a x).pc = s.pc := rfl
@[simp] theorem State.loadRegRun_sp (a : Nat) (x : Reg) : (s.loadRegRun a x).sp = s.sp := rfl
@[simp] theorem State.loadRegRun_stack (a : Nat) (x : Reg) : (s.loadRegRun a x).stack = s.stack := rfl
@[simp] theorem State.loadRegRun_mem (a : Nat) (x : Reg) : (s.loadRegRun a x).mem = s.mem := rfl
@[simp] theorem State.loadRegRun_fb (a : Nat) (x : Reg) : (s.loadRegRun a x).fb = s.fb := rfl
@[simp] theorem State.loadRegRun_dt (a : Nat) (x : Reg) : (s.loadRegRun a x).dt = s.dt := rfl
@[simp] theorem State.loadRegRun_st (a : Nat) (x : Reg) : (s.loadRegRun a x).st = s.st := rfl
@[simp] theorem State.loadRegRun_lastTick (a : Nat) (x : Reg) : (s.loadRegRun a x).lastTick = s.lastTick := rfl
@[simp] theorem State.loadRegRun_key (a : Nat) (x : Reg) : (s.loadRegRun a x).key = s.key := rfl
@[simp] theorem State.loadRegRun_cfg (a : Nat) (x : Reg) : (s.loadRegRun a x).cfg = s.cfg := rfl
@[simp] theorem State.loadRegRun_fault (a : Nat) (x : Reg) : (s.loadRegRun a x).fault = s.fault := rfl
@[simp] theorem State.loadRegRun_schedule (a : Nat) (x : Reg) : (s.loadRegRun a x).schedule = s.schedule := rfl
@[simp] theorem State.loadRegRun_stepNo (a : Nat) (x : Reg) : (s.loadRegRun a x).stepNo = s.stepNo := rfl
@[simp] theorem State.loadRegRun_readByte (a : Nat) (x : Reg) (d : Nat) : (s.loadRegRun a x).readByte d = s.readByte d := rfl
@[simp] theorem State.loadRegRun_pixel (a : Nat) (x : Reg) (r : Fin 32) (d : Fin 64) : (s.loadRegRun a x).pixel r d = s.pixel r d := rfl
@[simp] theorem State.loadRegRun_input (a : Nat) (x : Reg) : (s.loadRegRun a x).input = s.input := rfl

/-! ### `timerTick` -/

@[simp] theorem State.timerTick_v : (s.timerTick).v = s.v := rfl
@[simp] theorem State.timerTick_index : (s.timerTick).index = s.index := rfl
@[simp] theorem State.timerTick_pc : (s.timerTick).pc = s.pc := rfl
@[simp] theorem State.timerTick_sp : (s.timerTick).sp = s.sp := rfl
@[simp] theorem State.timerTick_stack : (s.timerTick).stack = s.stack := rfl
@[simp] theorem State.timerTick_mem : (s.timerTick).mem = s.mem := rfl
@[simp] theorem State.timerTick_fb : (s.timerTick).fb = s.fb := rfl
@[simp] theorem State.timerTick_dt : (s.timerTick).dt = countDown (tickDue s.lastTick s.input.gate) s.dt := rfl
@[simp] theorem State.timerTick_st : (s.timerTick).st = countDown (tickDue s.lastTick s.input.gate) s.st := rfl
@[simp] theorem State.timerTick_lastTick : (s.timerTick).lastTick = lastTickAfter s.lastTick s.input.gate := rfl
@[simp] theorem State.timerTick_key : (s.timerTick).key = s.key := rfl
@[simp] theorem State.timerTick_cfg : (s.timerTick).cfg = s.cfg := rfl
@[simp] theorem State.timerTick_fault : (s.timerTick).fault = s.fault := rfl
@[simp] theorem State.timerTick_schedule : (s.timerTick).schedule = s.schedule := rfl
@[simp] theorem State.timerTick_stepNo : (s.timerTick).stepNo = s.stepNo := rfl
@[simp] theorem State.timerTick_reg (r : Reg) : (s.timerTick).reg r = s.reg r := rfl
@[simp] theorem State.timerTick_readByte (d : Nat) : (s.timerTick).readByte d = s.readByte d := rfl
@[simp] theorem State.timerTick_pixel (r : Fin 32) (d : Fin 64) : (s.timerTick).pixel r d = s.pixel r d := rfl
@[simp] theorem State.timerTick_input : (s.timerTick).input = s.input := rfl

/-! ### `consumeKey` -/

@[simp] theorem State.consumeKey_v : (s.consumeKey).v = s.v := rfl
@[simp] theorem State.consumeKey_index : (s.consumeKey).index = s.index := rfl
@[simp] theorem State.consumeKey_pc : (s.consumeKey).pc = s.pc := rfl
@[simp] theorem State.consumeKey_sp : (s.consumeKey).sp = s.sp := rfl
@[simp] theorem State.consumeKey_stack : (s.consumeKey).stack = s.stack := rfl
@[simp] theorem State.consumeKey_mem : (s.consumeKey).mem = s.mem := rfl
@[simp] theorem State.consumeKey_fb : (s.consumeKey).fb = s.fb := rfl
@[simp] theorem State.consumeKey_dt : (s.consumeKey).dt = s.dt := rfl
@[simp] theorem State.consumeKey_st : (s.consumeKey).st = s.st := rfl
@[simp] theorem State.consumeKey_lastTick : (s.consumeKey).lastTick = s.lastTick := rfl
@[simp] theorem State.consumeKey_key : (s.consumeKey).key = none := rfl
@[simp] theorem State.consumeKey_cfg : (s.consumeKey).cfg = s.cfg := rfl
@[simp] theorem State.consumeKey_fault : (s.consumeKey).fault = s.fault := rfl
@[simp] theorem State.consumeKey_schedule : (s.consumeKey).schedule = s.schedule := rfl
@[simp] theorem State.consumeKey_stepNo : (s.consumeKey).stepNo = s.stepNo := rfl
@[simp] theorem State.consumeKey_reg (r : Reg) : (s.consumeKey).reg r = s.reg r := rfl
@[simp] theorem State.consumeKey_readByte (d : Nat) : (s.consumeKey).readByte d = s.readByte d := rfl
@[simp] theorem State.consumeKey_pixel (r : Fin 32) (d : Fin 64) : (s.consumeKey).pixel r d = s.pixel r d := rfl
@[simp] theorem State.consumeKey_input : (s.consumeKey).input = s.input := rfl

/-! ### `setKey` -/

@[simp] theorem State.setKey_v (k : Option Byte) : (s.setKey k).v = s.v := rfl
@[simp] theorem State.setKey_index (k : Option Byte) : (s.setKey k).index = s.index := rfl
@[simp] theorem State.setKey_pc (k : Option Byte) : (s.setKey k).pc = s.pc := rfl
@[simp] theorem State.setKey_sp (k : Option Byte) : (s.setKey k).sp = s.sp := rfl
@[simp] theorem State.setKey_stack (k : Option Byte) : (s.setKey k).stack = s.stack := rfl
@[simp] theorem State.setKey_mem (k : Option Byte) : (s.setKey k).mem = s.mem := rfl
@[simp] theorem State.setKey_fb (k : Option Byte) : (s.setKey k).fb = s.fb := rfl
@[simp] theorem State.setKey_dt (k : Option Byte) : (s.setKey k).dt = s.dt := rfl
@[simp] theorem State.setKey_st (k : Option Byte) : (s.setKey k).st = s.st := rfl
@[simp] theorem State.setKey_lastTick (k : Option Byte) : (s.setKey k).lastTick = s.lastTick := rfl
@[simp] theorem State.setKey_key (k : Option Byte) : (s.setKey k).key = k := rfl
@[simp] theorem State.setKey_cfg (k : Option Byte) : (s.setKey k).cfg = s.cfg := rfl
@[simp] theorem State.setKey_fault (k : Option Byte) : (s.setKey k).fault = s.fault := rfl
@[simp] theorem State.setKey_schedule (k : Option Byte) : (s.setKey k).schedule = s.schedule := rfl
@[simp] theorem State.setKey_stepNo (k : Option Byte) : (s.setKey k).stepNo = s.stepNo := rfl
@[simp] theorem State.setKey_reg (k : Option Byte) (r : Reg) : (s.setKey k).reg r = s.reg r := rfl
@[simp] theorem State.setKey_readByte (k : Option Byte) (d : Nat) : (s.setKey k).readByte d = s.readByte d := rfl
@[simp] theorem State.setKey_pixel (k : Option Byte) (r : Fin 32) (d : Fin 64) : (s.setKey k).pixel r d = s.pixel r d := rfl
@[simp] theorem State.setKey_input (k : Option Byte) : (s.setKey k).input = s.input := rfl

/-! ### `push` and `pop` -/

@[simp] theorem State.push_sp_val (w : Word) (h : s.sp.val < 16) : (s.push w h).sp.val = s.sp.val + 1 := rfl
@[simp] theorem State.pop_sp_val : s.pop.2.sp.val = s.sp.val - 1 := rfl

/-! ### `bumpIndex`, by the switch -/

theorem State.bumpIndex_index_on (x : Reg) (h : s.cfg.loadStoreIncrementsI = true) :
    (s.bumpIndex x).index = s.index + BitVec.ofNat 16 (x.val + 1) := by
  unfold State.bumpIndex; rw [if_pos h]; rfl

theorem State.bumpIndex_index_off (x : Reg) (h : s.cfg.loadStoreIncrementsI = false) :
    (s.bumpIndex x).index = s.index := by
  unfold State.bumpIndex; rw [if_neg (by simp [h])]

@[simp] theorem State.bumpIndex_v (x : Reg) : (s.bumpIndex x).v = s.v := by unfold State.bumpIndex; split <;> rfl
@[simp] theorem State.bumpIndex_pc (x : Reg) : (s.bumpIndex x).pc = s.pc := by unfold State.bumpIndex; split <;> rfl
@[simp] theorem State.bumpIndex_sp (x : Reg) : (s.bumpIndex x).sp = s.sp := by unfold State.bumpIndex; split <;> rfl
@[simp] theorem State.bumpIndex_stack (x : Reg) : (s.bumpIndex x).stack = s.stack := by unfold State.bumpIndex; split <;> rfl
@[simp] theorem State.bumpIndex_mem (x : Reg) : (s.bumpIndex x).mem = s.mem := by unfold State.bumpIndex; split <;> rfl
@[simp] theorem State.bumpIndex_fb (x : Reg) : (s.bumpIndex x).fb = s.fb := by unfold State.bumpIndex; split <;> rfl
@[simp] theorem State.bumpIndex_dt (x : Reg) : (s.bumpIndex x).dt = s.dt := by unfold State.bumpIndex; split <;> rfl
@[simp] theorem State.bumpIndex_st (x : Reg) : (s.bumpIndex x).st = s.st := by unfold State.bumpIndex; split <;> rfl
@[simp] theorem State.bumpIndex_lastTick (x : Reg) : (s.bumpIndex x).lastTick = s.lastTick := by unfold State.bumpIndex; split <;> rfl
@[simp] theorem State.bumpIndex_key (x : Reg) : (s.bumpIndex x).key = s.key := by unfold State.bumpIndex; split <;> rfl
@[simp] theorem State.bumpIndex_cfg (x : Reg) : (s.bumpIndex x).cfg = s.cfg := by unfold State.bumpIndex; split <;> rfl
@[simp] theorem State.bumpIndex_fault (x : Reg) : (s.bumpIndex x).fault = s.fault := by unfold State.bumpIndex; split <;> rfl
@[simp] theorem State.bumpIndex_schedule (x : Reg) : (s.bumpIndex x).schedule = s.schedule := by unfold State.bumpIndex; split <;> rfl
@[simp] theorem State.bumpIndex_stepNo (x : Reg) : (s.bumpIndex x).stepNo = s.stepNo := by unfold State.bumpIndex; split <;> rfl
@[simp] theorem State.bumpIndex_reg (x : Reg) (r : Reg) : (s.bumpIndex x).reg r = s.reg r := by unfold State.bumpIndex; split <;> rfl
@[simp] theorem State.bumpIndex_readByte (x : Reg) (c : Nat) : (s.bumpIndex x).readByte c = s.readByte c := by unfold State.bumpIndex; split <;> rfl
@[simp] theorem State.bumpIndex_pixel (x : Reg) (r : Fin 32) (c : Fin 64) : (s.bumpIndex x).pixel r c = s.pixel r c := by unfold State.bumpIndex; split <;> rfl
@[simp] theorem State.bumpIndex_input (x : Reg) : (s.bumpIndex x).input = s.input := by unfold State.bumpIndex; split <;> rfl

/-! ### `writeBytes`: every field but memory is kept -/

@[simp] theorem State.writeBytes_v (a : Nat) (bs : List Byte) : (s.writeBytes a bs).v = s.v := by
  induction bs generalizing s a with
  | nil => rfl
  | cons b bs ih => simp [State.writeBytes, ih]
@[simp] theorem State.writeBytes_index (a : Nat) (bs : List Byte) : (s.writeBytes a bs).index = s.index := by
  induction bs generalizing s a with
  | nil => rfl
  | cons b bs ih => simp [State.writeBytes, ih]
@[simp] theorem State.writeBytes_pc (a : Nat) (bs : List Byte) : (s.writeBytes a bs).pc = s.pc := by
  induction bs generalizing s a with
  | nil => rfl
  | cons b bs ih => simp [State.writeBytes, ih]
@[simp] theorem State.writeBytes_sp (a : Nat) (bs : List Byte) : (s.writeBytes a bs).sp = s.sp := by
  induction bs generalizing s a with
  | nil => rfl
  | cons b bs ih => simp [State.writeBytes, ih]
@[simp] theorem State.writeBytes_stack (a : Nat) (bs : List Byte) : (s.writeBytes a bs).stack = s.stack := by
  induction bs generalizing s a with
  | nil => rfl
  | cons b bs ih => simp [State.writeBytes, ih]
@[simp] theorem State.writeBytes_fb (a : Nat) (bs : List Byte) : (s.writeBytes a bs).fb = s.fb := by
  induction bs generalizing s a with
  | nil => rfl
  | cons b bs ih => simp [State.writeBytes, ih]
@[simp] theorem State.writeBytes_dt (a : Nat) (bs : List Byte) : (s.writeBytes a bs).dt = s.dt := by
  induction bs generalizing s a with
  | nil => rfl
  | cons b bs ih => simp [State.writeBytes, ih]
@[simp] theorem State.writeBytes_st (a : Nat) (bs : List Byte) : (s.writeBytes a bs).st = s.st := by
  induction bs generalizing s a with
  | nil => rfl
  | cons b bs ih => simp [State.writeBytes, ih]
@[simp] theorem State.writeBytes_lastTick (a : Nat) (bs : List Byte) : (s.writeBytes a bs).lastTick = s.lastTick := by
  induction bs generalizing s a with
  | nil => rfl
  | cons b bs ih => simp [State.writeBytes, ih]
@[simp] theorem State.writeBytes_key (a : Nat) (bs : List Byte) : (s.writeBytes a bs).key = s.key := by
  induction bs generalizing s a with
  | nil => rfl
  | cons b bs ih => simp [State.writeBytes, ih]
@[simp] theorem State.writeBytes_cfg (a : Nat) (bs : List Byte) : (s.writeBytes a bs).cfg = s.cfg := by
  induction bs generalizing s a with
  | nil => rfl
  | cons b bs ih => simp [State.writeBytes, ih]
@[simp] theorem State.writeBytes_fault (a : Nat) (bs : List Byte) : (s.writeBytes a bs).fault = s.fault := by
  induction bs generalizing s a with
  | nil => rfl
  | cons b bs ih => simp [State.writeBytes, ih]
@[simp] theorem State.writeBytes_schedule (a : Nat) (bs : List Byte) : (s.writeBytes a bs).schedule = s.schedule := by
  induction bs generalizing s a with
  | nil => rfl
  | cons b bs ih => simp [State.writeBytes, ih]
@[simp] theorem State.writeBytes_stepNo (a : Nat) (bs : List Byte) : (s.writeBytes a bs).stepNo = s.stepNo := by
  induction bs generalizing s a with
  | nil => rfl
  | cons b bs ih => simp [State.writeBytes, ih]
@[simp] theorem State.writeBytes_reg (a : Nat) (bs : List Byte) (r : Reg) : (s.writeBytes a bs).reg r = s.reg r := by
  simp [State.reg]
@[simp] theorem State.writeBytes_pixel (a : Nat) (bs : List Byte) (r : Fin 32) (c : Fin 64) :
    (s.writeBytes a bs).pixel r c = s.pixel r c := by
  simp [State.pixel]
@[simp] theorem State.writeBytes_input (a : Nat) (bs : List Byte) : (s.writeBytes a bs).input = s.input := by
  simp [State.input]

/-! ### The host's `reset()` -/

@[simp] theorem State.hostReset_v : s.hostReset.v = Vector.replicate 16 0#8 := rfl
@[simp] theorem State.hostReset_index : s.hostReset.index = 0#16 := rfl
@[simp] theorem State.hostReset_pc : s.hostReset.pc = 0x200#16 := rfl
@[simp] theorem State.hostReset_sp : s.hostReset.sp = 0 := rfl
@[simp] theorem State.hostReset_stack : s.hostReset.stack = Vector.replicate 16 0#16 := rfl
@[simp] theorem State.hostReset_mem : s.hostReset.mem = s.clearProgram.mem := rfl
@[simp] theorem State.hostReset_fb : s.hostReset.fb = Framebuffer.blank := rfl
@[simp] theorem State.hostReset_dt : s.hostReset.dt = 0#8 := rfl
@[simp] theorem State.hostReset_st : s.hostReset.st = 0#8 := rfl
@[simp] theorem State.hostReset_lastTick : s.hostReset.lastTick = none := rfl
@[simp] theorem State.hostReset_key : s.hostReset.key = none := rfl
@[simp] theorem State.hostReset_cfg : s.hostReset.cfg = s.cfg := rfl
@[simp] theorem State.hostReset_fault : s.hostReset.fault = none := rfl
@[simp] theorem State.hostReset_schedule : s.hostReset.schedule = s.schedule := rfl
@[simp] theorem State.hostReset_stepNo : s.hostReset.stepNo = s.stepNo := rfl

/-! ### Registers -/

@[simp] theorem State.reg_setReg_same (x : Reg) (b : Byte) : (s.setReg x b).reg x = b := by
  simp [State.reg, State.setReg]

@[simp] theorem State.reg_setReg_other (x r : Reg) (b : Byte) (h : r ≠ x) : (s.setReg x b).reg r = s.reg r := by
  have : x.val ≠ r.val := fun e => h (Fin.ext e.symm)
  simp [State.reg, State.setReg, this]

theorem State.reg_setReg (x r : Reg) (b : Byte) : (s.setReg x b).reg r = if r = x then b else s.reg r := by
  by_cases h : r = x <;> simp [h]

theorem State.reg_setFlag (r : Reg) (c : Bool) : (s.setFlag c).reg r = if r = Reg.vf then flagByte c else s.reg r := by
  simp [State.setFlag, State.reg_setReg]

/-- Result first, flag last: with `x = 15` the flag stays (10_state.md R13). -/
theorem State.reg_setResultAndFlag (x r : Reg) (b : Byte) (c : Bool) :
    (s.setResultAndFlag x b c).reg r = if r = Reg.vf then flagByte c else if r = x then b else s.reg r := by
  simp [State.setResultAndFlag, State.reg_setFlag, State.reg_setReg]

theorem State.reg_loadRegRun (a : Nat) (x r : Reg) :
    (s.loadRegRun a x).reg r = if r ≤ x then s.readByte (a + r.val) else s.reg r := by
  simp [State.reg, State.loadRegRun]

/-- Two states with the same registers, read one by one, have the same register file. -/
theorem State.v_ext {s t : State} (h : ∀ r : Reg, s.reg r = t.reg r) : s.v = t.v :=
  Vector.ext (fun i hi => h ⟨i, hi⟩)

end Sys2Proof.Machine
end

