-- ==== Sys2Proof/Laws/Memory.lean ====
section
/-!
SUPPORT. Memory: reading after writing, the canonical form that every operation keeps (log 6), the glyph table that no
store of an instruction reaches, runs of bytes.
-/

namespace Sys2Proof.Machine

variable {g : GlyphTable}

/-! ### One byte of a memory -/

theorem Memory.wfFrom_cons {lo a : Nat} {w : Byte} {m : Memory} :
    Memory.wfFrom g lo ((a, w) :: m) = true ↔
      lo ≤ a ∧ a < 4096 ∧ w ≠ Memory.unlisted g a ∧ Memory.wfFrom g (a + 1) m = true := by
  simp only [Memory.wfFrom, Bool.and_eq_true, decide_eq_true_eq, bne_iff_ne, and_assoc]
  exact Iff.rfl

theorem Memory.wfFrom_mono {lo lo' : Nat} {m : Memory} (h : Memory.wfFrom g lo m = true) (hle : lo' ≤ lo) :
    Memory.wfFrom g lo' m = true := by
  cases m with
  | nil => rfl
  | cons cell m =>
    rw [Memory.wfFrom_cons] at h ⊢
    exact ⟨by omega, h.2⟩

/-- Below the lowest listed address every byte reads as an unlisted one. -/
theorem Memory.read_below {lo a : Nat} {m : Memory} (h : Memory.wfFrom g lo m = true) (ha : a < lo) :
    Memory.read g m a = Memory.unlisted g a := by
  induction m generalizing lo with
  | nil => rfl
  | cons cell m ih =>
    obtain ⟨b, w⟩ := cell
    rw [Memory.wfFrom_cons] at h
    have hne : a ≠ b := by omega
    simp only [Memory.read, hne, if_false]
    exact ih h.2.2.2 (by omega)

/-- A read after a write to the same address gives the byte written. -/
theorem Memory.read_write_same {lo : Nat} {m : Memory} (h : Memory.wfFrom g lo m = true) (a : Nat) (v : Byte) :
    Memory.read g (Memory.write g m a v) a = v := by
  induction m generalizing lo with
  | nil =>
    simp only [Memory.write]
    split
    · next hv => simp [Memory.read, hv]
    · simp [Memory.read]
  | cons cell m ih =>
    obtain ⟨b, w⟩ := cell
    rw [Memory.wfFrom_cons] at h
    simp only [Memory.write]
    split
    · next hlt =>
      split
      · next hv =>
        have hne : a ≠ b := by omega
        simp only [Memory.read, hne, if_false, hv]
        exact Memory.read_below h.2.2.2 (by omega)
      · simp [Memory.read]
    · next hge =>
      split
      · next heq =>
        split
        · next hv => rw [hv]; exact Memory.read_below h.2.2.2 (by omega)
        · simp [Memory.read]
      · next hne =>
        simp only [Memory.read, hne, if_false]
        exact ih h.2.2.2

/-- A write leaves every other address alone. -/
theorem Memory.read_write_other (m : Memory) {a c : Nat} (v : Byte) (hc : c ≠ a) :
    Memory.read g (Memory.write g m a v) c = Memory.read g m c := by
  induction m with
  | nil =>
    simp only [Memory.write]
    split
    · rfl
    · simp [Memory.read, hc]
  | cons cell m ih =>
    obtain ⟨b, w⟩ := cell
    simp only [Memory.write]
    split
    · split
      · rfl
      · simp [Memory.read, hc]
    · split
      · next heq =>
        subst heq
        split <;> simp [Memory.read, hc]
      · simp only [Memory.read, ih]

/-- A write inside memory keeps the canonical form. -/
theorem Memory.wfFrom_write {lo : Nat} {m : Memory} (h : Memory.wfFrom g lo m = true) {a : Nat} (v : Byte)
    (hlo : lo ≤ a) (ha : a < 4096) : Memory.wfFrom g lo (Memory.write g m a v) = true := by
  induction m generalizing lo with
  | nil =>
    simp only [Memory.write]
    split
    · rfl
    · next hv => exact Memory.wfFrom_cons.mpr ⟨hlo, ha, hv, rfl⟩
  | cons cell m ih =>
    obtain ⟨b, w⟩ := cell
    have hc := Memory.wfFrom_cons.mp h
    simp only [Memory.write]
    split
    · next hlt =>
      split
      · exact h
      · next hv => exact Memory.wfFrom_cons.mpr ⟨hlo, ha, hv, Memory.wfFrom_cons.mpr ⟨by omega, hc.2⟩⟩
    · next hge =>
      split
      · next heq =>
        split
        · exact Memory.wfFrom_mono hc.2.2.2 (by omega)
        · next hv => exact Memory.wfFrom_cons.mpr ⟨hlo, ha, hv, heq ▸ hc.2.2.2⟩
      · next hne => exact Memory.wfFrom_cons.mpr ⟨hc.1, hc.2.1, hc.2.2.1, ih hc.2.2.2 (by omega)⟩

/-- Dropping listed cells by their address keeps the canonical form. -/
theorem Memory.wfFrom_filter {lo : Nat} {m : Memory} (h : Memory.wfFrom g lo m = true) (p : Nat → Bool) :
    Memory.wfFrom g lo (m.filter (fun cell => p cell.1)) = true := by
  induction m generalizing lo with
  | nil => rfl
  | cons cell m ih =>
    have hc := Memory.wfFrom_cons.mp h
    rw [List.filter_cons]
    split
    · exact Memory.wfFrom_cons.mpr ⟨hc.1, hc.2.1, hc.2.2.1, ih hc.2.2.2⟩
    · exact Memory.wfFrom_mono (ih hc.2.2.2) (by omega)

/-- After dropping cells, a kept address reads as before and a dropped one as an unlisted one. -/
theorem Memory.read_filter (m : Memory) (p : Nat → Bool) (a : Nat) :
    Memory.read g (m.filter (fun cell => p cell.1)) a = if p a then Memory.read g m a else Memory.unlisted g a := by
  induction m with
  | nil => simp [Memory.read]
  | cons cell m ih =>
    obtain ⟨b, w⟩ := cell
    rw [List.filter_cons]
    by_cases hab : a = b
    · subst hab
      cases hp : p a <;> simp [Memory.read, ih, hp]
    · cases hp : p b <;> simp [Memory.read, hab, ih]

theorem Memory.mem_write {m : Memory} {a : Nat} {v : Byte} {cell : Host.Cell} (h : cell ∈ Memory.write g m a v) :
    cell ∈ m ∨ cell = (a, v) := by
  induction m with
  | nil =>
    simp only [Memory.write] at h
    split at h <;> simp_all
  | cons c m ih =>
    obtain ⟨b, w⟩ := c
    simp only [Memory.write] at h
    split at h
    · split at h <;> first | (simp_all; done) | (simp_all; tauto)
    · split at h
      · split at h <;> first | (simp_all; done) | (simp_all; tauto)
      · rcases List.mem_cons.mp h with h | h
        · exact .inl (by simp [h])
        · rcases ih h with h | h
          · exact .inl (by simp [h])
          · exact .inr h

/-! ### One byte of the state's memory -/

variable (s : State)

theorem State.memWf_iff : s.memWf = true ↔ Memory.wfFrom s.cfg.glyphs 0 s.mem = true := Iff.rfl

theorem State.readByte_writeByte_same (hs : s.memWf = true) (a : Nat) (v : Byte) : (s.writeByte a v).readByte a = v :=
  Memory.read_write_same (g := s.cfg.glyphs) hs a v

theorem State.readByte_writeByte_other {a c : Nat} (v : Byte) (h : c ≠ a) :
    (s.writeByte a v).readByte c = s.readByte c :=
  Memory.read_write_other s.mem v h

theorem State.memWf_writeByte (hs : s.memWf = true) {a : Nat} (v : Byte) (ha : a < 4096) :
    (s.writeByte a v).memWf = true :=
  Memory.wfFrom_write (g := s.cfg.glyphs) hs v (Nat.zero_le a) ha

theorem State.glyphsIntact_writeByte (hs : s.glyphsIntact = true) {a : Nat} (v : Byte) (ha : 0x050 ≤ a) :
    (s.writeByte a v).glyphsIntact = true := by
  simp only [State.glyphsIntact, List.all_eq_true, decide_eq_true_eq] at hs ⊢
  intro cell hc
  rcases Memory.mem_write (g := s.cfg.glyphs) hc with h | h
  · exact hs cell h
  · rw [h]; exact ha

/-- With the glyph table untouched, its addresses read as `GLYPH_TABLE` (10_state.md R30). -/
theorem State.readByte_glyph (hs : s.glyphsIntact = true) {a : Nat} (ha : a < 80) : s.readByte a = s.cfg.glyphs[a] := by
  simp only [State.glyphsIntact, List.all_eq_true, decide_eq_true_eq] at hs
  have key : ∀ m : Memory, (∀ cell ∈ m, 0x050 ≤ cell.1) → Memory.read s.cfg.glyphs m a = Memory.unlisted s.cfg.glyphs a := by
    intro m
    induction m with
    | nil => intro _; rfl
    | cons cell m ih =>
      intro h
      have h0 : (0x050 : Nat) ≤ cell.1 := h cell (by simp)
      have hne : a ≠ cell.1 := by omega
      simp only [Memory.read, hne, if_false]
      exact ih (fun c hc => h c (by simp [hc]))
  rw [State.readByte, key s.mem hs, Memory.unlisted, dif_pos ha]

/-! ### Runs of bytes -/

theorem State.memWf_writeBytes (hs : s.memWf = true) (a : Nat) (bs : List Byte) (h : a + bs.length ≤ 4096) :
    (s.writeBytes a bs).memWf = true := by
  induction bs generalizing s a with
  | nil => exact hs
  | cons b bs ih =>
    simp only [List.length_cons] at h
    exact ih (s.writeByte a b) (s.memWf_writeByte hs b (by omega)) (a + 1) (by omega)

theorem State.glyphsIntact_writeBytes (hs : s.glyphsIntact = true) (a : Nat) (bs : List Byte) (h : 0x050 ≤ a) :
    (s.writeBytes a bs).glyphsIntact = true := by
  induction bs generalizing s a with
  | nil => exact hs
  | cons b bs ih => exact ih (s.writeByte a b) (s.glyphsIntact_writeByte hs b h) (a + 1) (by omega)

/-- A store leaves every byte outside the stored run alone. -/
theorem State.readByte_writeBytes_outside (a : Nat) (bs : List Byte) {c : Nat} (h : c < a ∨ a + bs.length ≤ c) :
    (s.writeBytes a bs).readByte c = s.readByte c := by
  induction bs generalizing s a with
  | nil => rfl
  | cons b bs ih =>
    simp only [List.length_cons] at h
    rw [State.writeBytes, ih (s.writeByte a b) (a + 1) (by omega)]
    exact s.readByte_writeByte_other b (by omega)

/-- The stored run reads as the bytes stored. -/
theorem State.readByte_writeBytes_inside (hs : s.memWf = true) (a : Nat) (bs : List Byte) (h : a + bs.length ≤ 4096)
    {k : Nat} (hk : k < bs.length) : (s.writeBytes a bs).readByte (a + k) = bs[k] := by
  induction bs generalizing s a k with
  | nil => simp at hk
  | cons b bs ih =>
    simp only [List.length_cons] at h hk
    cases k with
    | zero =>
      rw [State.writeBytes, Nat.add_zero, State.readByte_writeBytes_outside _ _ _ (Or.inl (by omega))]
      exact s.readByte_writeByte_same hs a b
    | succ k =>
      have := ih (s.writeByte a b) (s.memWf_writeByte hs b (by omega)) (a + 1) (by omega) (k := k) (by omega)
      rw [State.writeBytes, show a + (k + 1) = a + 1 + k by omega, this]
      rfl

@[simp] theorem State.readBytes_length (a n : Nat) : (s.readBytes a n).length = n := by simp [State.readBytes]

theorem State.readBytes_getElem (a n k : Nat) (h : k < (s.readBytes a n).length) :
    (s.readBytes a n)[k] = s.readByte (a + k) := by simp [State.readBytes]

/-- `clear()`: the program region reads as 0 and the bytes below it as before (70_reset_and_hazards.md R195). -/
theorem State.readByte_clearProgram (c : Nat) :
    s.clearProgram.readByte c = if c < 0x200 then s.readByte c else 0#8 := by
  have h := Memory.read_filter (g := s.cfg.glyphs) s.mem (fun a => decide (a < 0x200)) c
  have hz : ¬ c < 0x200 → Memory.unlisted s.cfg.glyphs c = 0#8 := fun h => by rw [Memory.unlisted, dif_neg (by omega)]
  rw [State.readByte, State.clearProgram_cfg]
  refine h.trans ?_
  by_cases hc : c < 0x200
  · simp [hc, State.readByte]
  · simp [hc, hz hc]

theorem State.memWf_clearProgram (hs : s.memWf = true) : s.clearProgram.memWf = true :=
  Memory.wfFrom_filter (g := s.cfg.glyphs) hs (fun a => decide (a < 0x200))

theorem State.glyphsIntact_clearProgram (hs : s.glyphsIntact = true) : s.clearProgram.glyphsIntact = true := by
  simp only [State.glyphsIntact, State.clearProgram, List.all_eq_true, decide_eq_true_eq, List.mem_filter] at hs ⊢
  exact fun cell hc => hs cell hc.1

end Sys2Proof.Machine
end

