-- ==== Sys2Proof/Laws/Ops.lean ====
section
/-!
SUPPORT. What each shared operation can do, said once: the checks of multi-byte accesses, raising, fetching, flags, the
call stack, the timer gate.
-/

namespace Sys2Proof.Machine

/-! ### Checks before any access (20_memory.md R46, 60_exceptions.md R166) -/

theorem firstFault_zero (check : Nat → Option Fault) (base : Nat) : firstFault check base 0 = none := rfl

theorem firstFault_succ (check : Nat → Option Fault) (base n : Nat) :
    firstFault check base (n + 1) = (firstFault check base n).or (check (base + n)) := by
  simp [firstFault, List.range_succ, List.findSome?_append]

theorem firstFault_none (check : Nat → Option Fault) (base n : Nat) :
    firstFault check base n = none ↔ ∀ k < n, check (base + k) = none := by
  simp [firstFault]

/-- The fault of the lowest failing address. -/
theorem firstFault_some {check : Nat → Option Fault} {base n k : Nat} {f : Fault} (hk : k < n)
    (hf : check (base + k) = some f) (hlow : ∀ j < k, check (base + j) = none) : firstFault check base n = some f := by
  induction n with
  | zero => omega
  | succ n ih =>
    rw [firstFault_succ]
    by_cases h : k < n
    · rw [ih h]; rfl
    · have : k = n := by omega
      subst this
      rw [(firstFault_none check base k).mpr hlow, hf]; rfl

/-- Reads: `MemoryOutOfBounds` at the lowest address above 0xFFF, if the run passes it. -/
theorem firstFault_read (base n : Nat) :
    firstFault readFault base n =
      if 0 < n ∧ 0xFFF < base + n - 1 then some (.memoryOutOfBounds (max base 0x1000)) else none := by
  split
  · next h =>
    refine firstFault_some (k := 0x1000 - base) (by omega) ?_ ?_
    · rw [readFault, if_pos (by omega)]; congr 2; omega
    · intro j hj; rw [readFault, if_neg (by omega)]
  · next h =>
    rw [firstFault_none]
    intro k hk; rw [readFault, if_neg (by omega)]

/-- Writes: `GlyphTableWrite` at the base if it lies in the glyph table, else `MemoryOutOfBounds` at the lowest address
above 0xFFF, if the run passes it (60_exceptions.md R166). -/
theorem firstFault_write (base n : Nat) (hn : 0 < n) :
    firstFault writeFault base n =
      if base ≤ 0x04F then some (.glyphTableWrite base)
      else if 0xFFF < base + n - 1 then some (.memoryOutOfBounds (max base 0x1000)) else none := by
  split
  · next h =>
    exact firstFault_some (k := 0) hn
      (by rw [Nat.add_zero, writeFault, if_neg (by omega), if_pos h]) (by omega)
  · next h =>
    split
    · next h2 =>
      refine firstFault_some (k := 0x1000 - base) (by omega) ?_ ?_
      · rw [writeFault, if_pos (by omega)]; congr 2; omega
      · intro j hj; rw [writeFault, if_neg (by omega), if_neg (by omega)]
    · next h2 =>
      rw [firstFault_none]
      intro k hk; rw [writeFault, if_neg (by omega), if_neg (by omega)]

theorem checked_ok {check : Nat → Option Fault} {base n : Nat} (h : firstFault check base n = none) (s : State)
    (onOk : Result) : checked check base n s onOk = onOk := by simp [checked, h]

theorem checked_raises {check : Nat → Option Fault} {base n : Nat} {f : Fault} (h : firstFault check base n = some f)
    (s : State) (onOk : Result) : checked check base n s onOk = raise f s := by simp [checked, h]

/-- Everything a checked instruction can do: go on, or raise. -/
theorem checked_cases (check : Nat → Option Fault) (base n : Nat) (s : State) (onOk : Result) :
    (firstFault check base n = none ∧ checked check base n s onOk = onOk) ∨
      ∃ f, firstFault check base n = some f ∧ checked check base n s onOk = raise f s := by
  cases h : firstFault check base n with
  | none => exact .inl ⟨rfl, checked_ok h s onOk⟩
  | some f => exact .inr ⟨f, rfl, checked_raises h s onOk⟩

/-- A run of reads that passes its check lies inside memory. -/
theorem readRun_inside {base n : Nat} (h : firstFault readFault base n = none) (hn : 0 < n) : base + n ≤ 4096 := by
  rw [firstFault_read] at h
  split at h
  · cases h
  · omega

/-- A run of writes that passes its check lies inside memory, above the glyph table. -/
theorem writeRun_inside {base n : Nat} (h : firstFault writeFault base n = none) (hn : 0 < n) :
    0x050 ≤ base ∧ base + n ≤ 4096 := by
  rw [firstFault_write base n hn] at h
  split at h
  · cases h
  · split at h
    · cases h
    · omega

/-! ### Fetch (20_memory.md R42) -/

theorem State.fetchWord_ok (s : State) {a : Word} (h : a.toNat < 0xFFF) :
    s.fetchWord a = .ok (wordOfBytes (s.readByte a.toNat) (s.readByte (a.toNat + 1))) := by
  rw [State.fetchWord, if_neg (by omega)]

theorem State.fetchWord_fault (s : State) {a : Word} (h : 0xFFF ≤ a.toNat) :
    s.fetchWord a = .error (.fetchOutOfBounds a) := by
  rw [State.fetchWord, if_pos (by omega)]

/-! ### Flags (10_state.md R12) -/

theorem flagByte_cases (c : Bool) : flagByte c = 0#8 ∨ flagByte c = 1#8 := by cases c <;> simp [flagByte]

theorem flagByte_eq_one (c : Bool) : flagByte c = 1#8 ↔ c = true := by cases c <;> decide

theorem carryOut_iff (a b : Byte) : carryOut a b = true ↔ 255 < a.toNat + b.toNat := by simp [carryOut]

theorem noBorrow_iff (a b : Byte) : noBorrow a b = true ↔ b.toNat ≤ a.toNat := by simp [noBorrow]

/-! ### Operands -/

theorem addrWord_toNat (addr : Addr12) : (addrWord addr).toNat = addr.toNat := by
  have := addr.isLt
  simp only [addrWord, BitVec.toNat_setWidth]
  omega

theorem bcdDigits_length (b : Byte) : (bcdDigits b).length = 3 := rfl

theorem State.regRun_length (s : State) (x : Reg) : (s.regRun x).length = x.val + 1 := by
  simp [State.regRun]

theorem State.regRun_getElem (s : State) (x : Reg) {k : Nat} (hk : k < (s.regRun x).length) :
    (s.regRun x)[k] = s.reg ⟨k, by have := s.regRun_length x; omega⟩ := by
  simp [State.regRun, State.reg]

theorem glyphOffset_digit (o : GlyphOverrange) {d : Byte} (h : d.toNat ≤ 15) : (glyphOffset o d).toNat = d.toNat * 5 := by
  simp only [glyphOffset, h, if_true, BitVec.toNat_ofNat]
  omega

theorem State.pop_push (s : State) (w : Word) (h : s.sp.val < 16) : (s.push w h).pop.1 = w := by
  simp [State.pop, State.push]

theorem State.pop_push_sp (s : State) (w : Word) (h : s.sp.val < 16) : (s.push w h).pop.2.sp = s.sp := rfl

/-! ### The timers (60_exceptions.md R171 to R173) -/

theorem countDown_closed (b : Byte) : countDown false b = b := rfl

theorem countDown_open (b : Byte) : (countDown true b).toNat = b.toNat - 1 := by
  by_cases h : b = 0#8
  · simp [countDown, h]
  · have hb : b.toNat ≠ 0 := fun e => h (BitVec.eq_of_toNat_eq (by simpa using e))
    have := b.isLt
    simp only [countDown, h, if_true, if_false, BitVec.toNat_sub, BitVec.toNat_ofNat]
    omega

/-- A counter never rises and falls by at most one a tick (60_exceptions.md R172). -/
theorem countDown_bounds (due : Bool) (b : Byte) :
    (countDown due b).toNat ≤ b.toNat ∧ b.toNat ≤ (countDown due b).toNat + 1 := by
  cases due
  · simp [countDown_closed]
  · rw [countDown_open]; omega

/-! ### The inputs of a step -/

theorem State.input_scheduled (s : State) (i : StepInput) (rest : List StepInput) (h : s.schedule = i :: rest) :
    s.input = i := by simp [State.input, h]

theorem State.input_free (s : State) (h : s.schedule = []) :
    s.input = { gate := Config.freeGate s.stepNo, rand := Config.freeRandByte s.stepNo } := by simp [State.input, h]

end Sys2Proof.Machine
end

