-- ==== Sys2Proof/Laws/Display.lean ====
section
/-!
SUPPORT. The blit said without its loops: which source bit meets which pixel, the framebuffer after it, the collision.
No pixel is visited twice (44_display.md R144), so both are one formula per pixel.
-/

namespace Sys2Proof.Machine

/-! ### Pixels -/

theorem Framebuffer.pixel_setPixel (fb : Framebuffer) (r r' : Fin 32) (c c' : Fin 64) (b : Bool) :
    (fb.setPixel r c b).pixel r' c' = if r' = r ∧ c' = c then b else fb.pixel r' c' := by
  simp only [Framebuffer.pixel, Framebuffer.setPixel, Vector.getElem_set, Fin.ext_iff]
  by_cases hr : r.val = r'.val
  · by_cases hc : c.val = c'.val <;> simp [hr, hc, eq_comm]
  · simp [hr, eq_comm]

theorem Framebuffer.pixel_blank (r : Fin 32) (c : Fin 64) : Framebuffer.blank.pixel r c = false := by
  simp [Framebuffer.pixel, Framebuffer.blank]

theorem Framebuffer.ext {fb fb' : Framebuffer} (h : ∀ r c, fb.pixel r c = fb'.pixel r c) : fb = fb' :=
  Vector.ext (fun i hi => Vector.ext (fun j hj => h ⟨i, hi⟩ ⟨j, hj⟩))

/-! ### One pixel, one sprite row -/

theorem blitPixel_pixel (r r' : Fin 32) (c c' : Fin 64) (src : Bool) (acc : Framebuffer × Bool) :
    (blitPixel r c src acc).1.pixel r' c' = (acc.1.pixel r' c' ^^ (decide (r' = r ∧ c' = c) && src)) := by
  simp only [blitPixel, Framebuffer.pixel_setPixel]
  by_cases h : r' = r ∧ c' = c
  · simp [h.1, h.2]
  · simp [h]

/-- The column of a sprite row that meets framebuffer column `c`, counted from the sprite's left edge. -/
def spriteCol (x : Byte) (c : Fin 64) : Nat := (c.val + 256 - x.toNat) % 64

/-- The row of a sprite that meets framebuffer row `r`, counted from the sprite's top edge. -/
def spriteRow (y : Byte) (r : Fin 32) : Nat := (r.val + 256 - y.toNat) % 32

/-- The source bit that one sprite row sends to framebuffer column `c`: none outside its eight columns. -/
def rowBit (x : Byte) (b : Byte) (c : Fin 64) : Bool := decide (spriteCol x c < 8) && spriteBit b (spriteCol x c)

/-- The source bit that a sprite sends to pixel `(r, c)`: none outside its rows and its eight columns. -/
def sourceBit (x y : Byte) (rows : List Byte) (r : Fin 32) (c : Fin 64) : Bool :=
  match rows[spriteRow y r]? with
  | some b => rowBit x b c
  | none => false

theorem blitCol_eq_iff (x : Byte) (c : Fin 64) {col : Nat} (h : col < 8) : c = blitCol x col ↔ spriteCol x c = col := by
  have := x.isLt
  have := c.isLt
  simp only [blitCol, Fin.ext_iff, spriteCol]
  omega

theorem blitRow_eq_iff (y : Byte) (r : Fin 32) {row : Nat} (h : row < 32) : r = blitRow y row ↔ spriteRow y r = row := by
  have := y.isLt
  have := r.isLt
  simp only [blitRow, Fin.ext_iff, spriteRow]
  omega

theorem blitCol_spriteCol (x : Byte) (c : Fin 64) : blitCol x (spriteCol x c) = c := by
  have := x.isLt
  have := c.isLt
  simp only [blitCol, Fin.ext_iff, spriteCol]
  omega

theorem blitRow_spriteRow (y : Byte) (r : Fin 32) : blitRow y (spriteRow y r) = r := by
  have := y.isLt
  have := r.isLt
  simp only [blitRow, Fin.ext_iff, spriteRow]
  omega

/-- The first `k` pixels of a sprite row. -/
def blitCols (x y : Byte) (row : Nat) (b : Byte) (k : Nat) (acc : Framebuffer × Bool) : Framebuffer × Bool :=
  (List.range k).foldl (fun acc col => blitPixel (blitRow y row) (blitCol x col) (spriteBit b col) acc) acc

theorem blitCols_succ (x y : Byte) (row : Nat) (b : Byte) (k : Nat) (acc : Framebuffer × Bool) :
    blitCols x y row b (k + 1) acc =
      blitPixel (blitRow y row) (blitCol x k) (spriteBit b k) (blitCols x y row b k acc) := by
  simp [blitCols, List.range_succ]

theorem blitCols_pixel (x y : Byte) (row : Nat) (b : Byte) (k : Nat) (hk : k ≤ 8) (acc : Framebuffer × Bool)
    (r : Fin 32) (c : Fin 64) :
    (blitCols x y row b k acc).1.pixel r c =
      (acc.1.pixel r c ^^ (decide (r = blitRow y row ∧ spriteCol x c < k) && spriteBit b (spriteCol x c))) := by
  induction k with
  | zero => simp [blitCols]
  | succ k ih =>
    rw [blitCols_succ, blitPixel_pixel, ih (by omega)]
    have hc := blitCol_eq_iff x c (col := k) (by omega)
    by_cases hr : r = blitRow y row
    · by_cases hk' : spriteCol x c = k
      · simp [hr, hc, hk']
      · have : spriteCol x c < k + 1 ↔ spriteCol x c < k := by omega
        simp [hr, hc, hk', this]
    · simp [hr]

theorem blitCols_flag (x y : Byte) (row : Nat) (b : Byte) (k : Nat) (hk : k ≤ 8) (acc : Framebuffer × Bool) :
    (blitCols x y row b k acc).2 = true ↔
      acc.2 = true ∨ ∃ col < k, acc.1.pixel (blitRow y row) (blitCol x col) = true ∧ spriteBit b col = true := by
  induction k with
  | zero => simp [blitCols]
  | succ k ih =>
    rw [blitCols_succ]
    have hlast : spriteCol x (blitCol x k) = k := (blitCol_eq_iff x _ (by omega)).mp rfl
    have hpix := blitCols_pixel x y row b k (by omega) acc (blitRow y row) (blitCol x k)
    simp only [hlast, lt_irrefl, and_false, decide_false, Bool.false_and, Bool.xor_false] at hpix
    simp only [blitPixel, Bool.or_eq_true, Bool.and_eq_true, ih (by omega), hpix]
    constructor
    · rintro ((h | ⟨col, h1, h2⟩) | h)
      · exact .inl h
      · exact .inr ⟨col, by omega, h2⟩
      · exact .inr ⟨k, by omega, h⟩
    · rintro (h | ⟨col, h1, h2⟩)
      · exact .inl (.inl h)
      · by_cases hck : col = k
        · exact .inr (hck ▸ h2)
        · exact .inl (.inr ⟨col, by omega, h2⟩)

theorem blitByte_pixel (x y : Byte) (row : Nat) (hrow : row < 32) (b : Byte) (acc : Framebuffer × Bool) (r : Fin 32)
    (c : Fin 64) :
    (blitByte x y row b acc).1.pixel r c = (acc.1.pixel r c ^^ (decide (spriteRow y r = row) && rowBit x b c)) := by
  have h := blitCols_pixel x y row b 8 (le_refl 8) acc r c
  rw [show blitByte x y row b acc = blitCols x y row b 8 acc from rfl, h]
  simp only [blitRow_eq_iff y r hrow, Bool.decide_and, rowBit, Bool.and_assoc]

theorem blitByte_flag (x y : Byte) (row : Nat) (b : Byte) (acc : Framebuffer × Bool) :
    (blitByte x y row b acc).2 = true ↔
      acc.2 = true ∨ ∃ c, acc.1.pixel (blitRow y row) c = true ∧ rowBit x b c = true := by
  rw [show blitByte x y row b acc = blitCols x y row b 8 acc from rfl, blitCols_flag x y row b 8 (le_refl 8)]
  refine or_congr_right ⟨?_, ?_⟩
  · rintro ⟨col, hc, h1, h2⟩
    have hs : spriteCol x (blitCol x col) = col := (blitCol_eq_iff x _ hc).mp rfl
    exact ⟨blitCol x col, h1, by simp [rowBit, hs, hc, h2]⟩
  · rintro ⟨c, h1, h2⟩
    simp only [rowBit, Bool.and_eq_true, decide_eq_true_eq] at h2
    exact ⟨spriteCol x c, h2.1, by rw [blitCol_spriteCol]; exact ⟨h1, h2.2⟩⟩

/-! ### The whole sprite -/

theorem blitRows_pixel (x y : Byte) (rows : List Byte) (row : Nat) (h : row + rows.length ≤ 32) (acc : Framebuffer × Bool)
    (r : Fin 32) (c : Fin 64) :
    (blitRows x y row rows acc).1.pixel r c =
      (acc.1.pixel r c ^^ (decide (row ≤ spriteRow y r) &&
        match rows[spriteRow y r - row]? with
        | some b => rowBit x b c
        | none => false)) := by
  induction rows generalizing row acc with
  | nil => simp [blitRows]
  | cons b bs ih =>
    simp only [List.length_cons] at h
    rw [blitRows, ih (row + 1) (by omega), blitByte_pixel x y row (by omega)]
    by_cases h1 : spriteRow y r = row
    · simp [h1]
    · by_cases h2 : row + 1 ≤ spriteRow y r
      · have h3 : row ≤ spriteRow y r := by omega
        have h4 : spriteRow y r - row = (spriteRow y r - (row + 1)) + 1 := by omega
        simp [h1, h2, h3, h4]
      · have h3 : ¬ row ≤ spriteRow y r := by omega
        simp [h1, h2, h3]

/-- The framebuffer after a blit: every pixel XORed with the source bit that meets it (44_display.md R142). -/
theorem blit_pixel (x y : Byte) (rows : List Byte) (h : rows.length ≤ 32) (fb : Framebuffer) (r : Fin 32) (c : Fin 64) :
    (blit x y rows fb).1.pixel r c = (fb.pixel r c ^^ sourceBit x y rows r c) := by
  rw [blit, blitRows_pixel x y rows 0 (by omega)]
  simp [sourceBit]

theorem blitRows_flag (x y : Byte) (rows : List Byte) (row : Nat) (h : row + rows.length ≤ 32)
    (acc : Framebuffer × Bool) :
    (blitRows x y row rows acc).2 = true ↔
      acc.2 = true ∨ ∃ k b c, rows[k]? = some b ∧ acc.1.pixel (blitRow y (row + k)) c = true ∧ rowBit x b c = true := by
  induction rows generalizing row acc with
  | nil => simp [blitRows]
  | cons b bs ih =>
    simp only [List.length_cons] at h
    rw [blitRows, ih (row + 1) (by omega), blitByte_flag]
    have hpix : ∀ k, k < bs.length → ∀ c, (blitByte x y row b acc).1.pixel (blitRow y (row + 1 + k)) c =
        acc.1.pixel (blitRow y (row + (k + 1))) c := by
      intro k hk c
      have hs : spriteRow y (blitRow y (row + 1 + k)) = row + 1 + k := (blitRow_eq_iff y _ (by omega)).mp rfl
      rw [blitByte_pixel x y row (by omega), hs, show row + 1 + k = row + (k + 1) by omega]
      have : ¬ row + (k + 1) = row := by omega
      simp
    constructor
    · rintro ((h | ⟨c, h⟩) | ⟨k, b', c, h1, h2, h3⟩)
      · exact .inl h
      · exact .inr ⟨0, b, c, rfl, h⟩
      · have hk : k < bs.length := (List.getElem?_eq_some_iff.mp h1).1
        exact .inr ⟨k + 1, b', c, by simpa using h1, by rw [← hpix k hk]; exact h2, h3⟩
    · rintro (h | ⟨k, b', c, h1, h2, h3⟩)
      · exact .inl (.inl h)
      · cases k with
        | zero =>
          simp only [List.getElem?_cons_zero, Option.some.injEq] at h1
          exact .inl (.inr ⟨c, h2, h1 ▸ h3⟩)
        | succ k =>
          have h1' : bs[k]? = some b' := by simpa using h1
          have hk : k < bs.length := (List.getElem?_eq_some_iff.mp h1').1
          exact .inr ⟨k, b', c, h1', by rw [hpix k hk]; exact h2, h3⟩

/-- The collision: some lit pixel met a set source bit, and so went off (44_display.md R142). -/
theorem blit_collision (x y : Byte) (rows : List Byte) (h : rows.length ≤ 32) (fb : Framebuffer) :
    (blit x y rows fb).2 = true ↔ ∃ r c, fb.pixel r c = true ∧ sourceBit x y rows r c = true := by
  rw [blit, blitRows_flag x y rows 0 (by omega)]
  simp only [Bool.false_eq_true, false_or, Nat.zero_add]
  constructor
  · rintro ⟨k, b, c, h1, h2, h3⟩
    have hk : k < rows.length := (List.getElem?_eq_some_iff.mp h1).1
    have hs : spriteRow y (blitRow y k) = k := (blitRow_eq_iff y _ (by omega)).mp rfl
    exact ⟨blitRow y k, c, h2, by simp [sourceBit, hs, h1, h3]⟩
  · rintro ⟨r, c, h1, h2⟩
    unfold sourceBit at h2
    split at h2
    · next b hb => exact ⟨spriteRow y r, b, c, hb, by rw [blitRow_spriteRow]; exact h1, h2⟩
    · cases h2

end Sys2Proof.Machine
end

