-- ==== Sys2Proof/Laws/Exec.lean ====
section
/-!
SUPPORT. What an instruction and a step can do, said once: an instruction raises, or answers a next state with the fault
latch, the configuration and the inputs as they were; a step stays, or ticks and then does one of the three things of
40_step_cycle.md R80.
-/

namespace Sys2Proof.Machine

/-- What no instruction that does not raise changes. -/
def KeepsLatchAndConfig (s t : State) : Prop :=
  t.fault = s.fault ∧ t.cfg = s.cfg ∧ t.lastTick = s.lastTick ∧ t.schedule = s.schedule ∧ t.stepNo = s.stepNo

/-- Everything `exec` can answer: a raise, or a next state that keeps latch, configuration and inputs. -/
theorem exec_cases (i : Instr) (s : State) :
    (∃ f, exec i s = raise f s) ∨ ∃ t, exec i s = .next t ∧ KeepsLatchAndConfig s t := by
  have viaCheck : ∀ (check : Nat → Option Fault) (base n : Nat) (t : State), KeepsLatchAndConfig s t →
      (∃ f, checked check base n s (.next t) = raise f s) ∨
        ∃ u, checked check base n s (.next t) = .next u ∧ KeepsLatchAndConfig s u := by
    intro check base n t ht
    rcases checked_cases check base n s (.next t) with ⟨-, h⟩ | ⟨f, -, h⟩
    · exact .inr ⟨t, h, ht⟩
    · exact .inl ⟨f, h⟩
  cases i with
  | ret =>
    by_cases h : s.sp.val = 0
    · exact .inl ⟨.stackUnderflow, if_pos h⟩
    · exact .inr ⟨s.pop.2.jump s.pop.1, if_neg h, rfl, rfl, rfl, rfl, rfl⟩
  | call addr =>
    by_cases h : s.sp.val < 16
    · exact .inr ⟨(s.push s.nextPc h).jump (addrWord addr), dif_pos h, rfl, rfl, rfl, rfl, rfl⟩
    · exact .inl ⟨.stackOverflow, dif_neg h⟩
  | ldVxK x =>
    cases h : s.key with
    | none => exact .inr ⟨s, by simp [exec, execLdVxK, h], rfl, rfl, rfl, rfl, rfl⟩
    | some k => exact .inr ⟨(s.setReg x k).consumeKey.advance, by simp [exec, execLdVxK, h], rfl, rfl, rfl, rfl, rfl⟩
  | drw x y n => exact viaCheck _ _ _ _ ⟨rfl, rfl, rfl, rfl, rfl⟩
  | ldB x => exact viaCheck _ _ _ _ (by simp [KeepsLatchAndConfig])
  | storeRegs x => exact viaCheck _ _ _ _ (by simp [KeepsLatchAndConfig])
  | loadRegs x => exact viaCheck _ _ _ _ (by simp [KeepsLatchAndConfig])
  | cls | sys | jp | seImm | sneImm | seReg | ldImm | addImm | ldReg | or | and | xor | addReg | sub | shr | subn | shl
  | sneReg | ldI | jpV0 | rnd | skp | sknp | ldVxDT | ldDTVx | ldSTVx | addI | ldF =>
    exact .inr ⟨_, rfl, rfl, rfl, rfl, rfl, rfl⟩

/-- Everything stages 2 to 4 can do: raise, or run the instruction that the fetched word selects. -/
theorem fetchExecute_cases (s : State) :
    (∃ f, fetchExecute s = raise f s) ∨
      ∃ w i, s.fetchWord s.pc = .ok w ∧ decodeWord w = .ok i ∧ fetchExecute s = exec i s := by
  unfold fetchExecute
  cases hf : s.fetchWord s.pc with
  | error f => exact .inl ⟨f, rfl⟩
  | ok w =>
    cases hd : decodeWord w with
    | error e => exact .inl ⟨.invalidOpcode w, by simp [hd]⟩
    | ok i => exact .inr ⟨w, i, rfl, hd, by simp [hd]⟩

/-- Everything a step can do: nothing, with a fault latched; else tick, and then raise or run an instruction. -/
theorem step_cases (s : State) :
    (s.fault ≠ none ∧ step s = .next s) ∨
    (s.fault = none ∧ ∃ f, step s = .next { s.timerTick with fault := some f }.nextInput) ∨
    (s.fault = none ∧ ∃ w i, s.fetchWord s.pc = .ok w ∧ decodeWord w = .ok i ∧ step s = endStep (exec i s.timerTick)) := by
  cases h : s.fault with
  | some f => exact .inl ⟨by simp, by simp [step, h]⟩
  | none =>
    right
    rcases fetchExecute_cases s.timerTick with ⟨f, hf⟩ | ⟨w, i, hw, hi, he⟩
    · exact .inl ⟨rfl, f, by simp [step, h, hf, raise, endStep]⟩
    · exact .inr ⟨rfl, w, i, hw, hi, by simp [step, h, he]⟩

end Sys2Proof.Machine
end

