-- ==== Sys2Proof/Laws/PerInstr.lean ====
section
/-!
SUPPORT. Statements made for every instruction, one lemma per constructor. `EncodedWordSelectsRow`: the word of an
instruction selects its own row of the opcode map (30_encoding.md R66), whose masks and matches are written out here from
the table, apart from the encoder; and no row listed before it, which matters in class 0 only.
-/

namespace Sys2Proof.Laws

/-- A row of the opcode map: a word `w` selects it when `w & mask = match` (30_encoding.md R66). -/
structure OpcodeRow where
  mask : Word
  pattern : Word
  deriving DecidableEq, Repr

/-- The word meets the row's mask and match. -/
def OpcodeRow.meets (r : OpcodeRow) (w : Word) : Prop := w &&& r.mask = r.pattern

/-- The instruction's row of the opcode map. -/
def rowOf : Instr → OpcodeRow
  | .cls => ⟨0xF0FF#16, 0x00E0#16⟩
  | .ret => ⟨0xF0FF#16, 0x00EE#16⟩
  | .sys _ => ⟨0xF000#16, 0x0000#16⟩
  | .jp _ => ⟨0xF000#16, 0x1000#16⟩
  | .call _ => ⟨0xF000#16, 0x2000#16⟩
  | .seImm _ _ => ⟨0xF000#16, 0x3000#16⟩
  | .sneImm _ _ => ⟨0xF000#16, 0x4000#16⟩
  | .seReg _ _ => ⟨0xF000#16, 0x5000#16⟩
  | .ldImm _ _ => ⟨0xF000#16, 0x6000#16⟩
  | .addImm _ _ => ⟨0xF000#16, 0x7000#16⟩
  | .ldReg _ _ => ⟨0xF00F#16, 0x8000#16⟩
  | .or _ _ => ⟨0xF00F#16, 0x8001#16⟩
  | .and _ _ => ⟨0xF00F#16, 0x8002#16⟩
  | .xor _ _ => ⟨0xF00F#16, 0x8003#16⟩
  | .addReg _ _ => ⟨0xF00F#16, 0x8004#16⟩
  | .sub _ _ => ⟨0xF00F#16, 0x8005#16⟩
  | .shr _ _ => ⟨0xF00F#16, 0x8006#16⟩
  | .subn _ _ => ⟨0xF00F#16, 0x8007#16⟩
  | .shl _ _ => ⟨0xF00F#16, 0x800E#16⟩
  | .sneReg _ _ => ⟨0xF000#16, 0x9000#16⟩
  | .ldI _ => ⟨0xF000#16, 0xA000#16⟩
  | .jpV0 _ => ⟨0xF000#16, 0xB000#16⟩
  | .rnd _ _ => ⟨0xF000#16, 0xC000#16⟩
  | .drw _ _ _ => ⟨0xF000#16, 0xD000#16⟩
  | .skp _ => ⟨0xF0FF#16, 0xE09E#16⟩
  | .sknp _ => ⟨0xF0FF#16, 0xE0A1#16⟩
  | .ldVxDT _ => ⟨0xF0FF#16, 0xF007#16⟩
  | .ldVxK _ => ⟨0xF0FF#16, 0xF00A#16⟩
  | .ldDTVx _ => ⟨0xF0FF#16, 0xF015#16⟩
  | .ldSTVx _ => ⟨0xF0FF#16, 0xF018#16⟩
  | .addI _ => ⟨0xF0FF#16, 0xF01E#16⟩
  | .ldF _ => ⟨0xF0FF#16, 0xF029#16⟩
  | .ldB _ => ⟨0xF0FF#16, 0xF033#16⟩
  | .storeRegs _ => ⟨0xF0FF#16, 0xF055#16⟩
  | .loadRegs _ => ⟨0xF0FF#16, 0xF065#16⟩

/-- The rows listed before an instruction's own that share words with it: `CLS` and `RET` before `SYS` (R66). -/
def rowsBefore : Instr → List OpcodeRow
  | .cls => []
  | .ret => []
  | .sys _ => [rowOf .cls, rowOf .ret]
  | .jp _ => []
  | .call _ => []
  | .seImm _ _ => []
  | .sneImm _ _ => []
  | .seReg _ _ => []
  | .ldImm _ _ => []
  | .addImm _ _ => []
  | .ldReg _ _ => []
  | .or _ _ => []
  | .and _ _ => []
  | .xor _ _ => []
  | .addReg _ _ => []
  | .sub _ _ => []
  | .shr _ _ => []
  | .subn _ _ => []
  | .shl _ _ => []
  | .sneReg _ _ => []
  | .ldI _ => []
  | .jpV0 _ => []
  | .rnd _ _ => []
  | .drw _ _ _ => []
  | .skp _ => []
  | .sknp _ => []
  | .ldVxDT _ => []
  | .ldVxK _ => []
  | .ldDTVx _ => []
  | .ldSTVx _ => []
  | .addI _ => []
  | .ldF _ => []
  | .ldB _ => []
  | .storeRegs _ => []
  | .loadRegs _ => []

/-- The encoded word of a well-formed instruction meets its own row and no row listed before it. -/
def EncodedWordSelectsRow.Statement (i : Instr) : Prop :=
  i.wf = true → (rowOf i).meets (encode i) ∧ ∀ r ∈ rowsBefore i, ¬ r.meets (encode i)

/-! ### What a mask leaves of an encoded word -/

theorem encodeNNN_class (hi : Nibble) (addr : Addr12) : encodeNNN hi addr &&& 0xF000#16 = hi ++ 0#12 := by
  rw [encodeNNN, show 0xF000#16 = 0xF#4 ++ 0x000#12 by rfl, BitVec.and_append]
  congr 1
  · exact BitVec.and_allOnes
  · exact BitVec.and_zero

theorem encodeXKK_class (hi : Nibble) (x : Reg) (kk : Byte) : encodeXKK hi x kk &&& 0xF000#16 = hi ++ 0#4 ++ 0#8 := by
  rw [encodeXKK, show 0xF000#16 = 0xF#4 ++ 0x0#4 ++ 0x00#8 by rfl, BitVec.and_append, BitVec.and_append]
  congr 2
  · exact BitVec.and_allOnes
  · exact BitVec.and_zero
  · exact BitVec.and_zero

theorem encodeXKK_classLow (hi : Nibble) (x : Reg) (kk : Byte) : encodeXKK hi x kk &&& 0xF0FF#16 = hi ++ 0#4 ++ kk := by
  rw [encodeXKK, show 0xF0FF#16 = 0xF#4 ++ 0x0#4 ++ 0xFF#8 by rfl, BitVec.and_append, BitVec.and_append]
  congr 2
  · exact BitVec.and_allOnes
  · exact BitVec.and_zero
  · exact BitVec.and_allOnes

theorem encodeXYN_class (hi : Nibble) (x y : Reg) (n : Nibble) :
    encodeXYN hi x y n &&& 0xF000#16 = hi ++ 0#4 ++ 0#4 ++ 0#4 := by
  rw [encodeXYN, show 0xF000#16 = 0xF#4 ++ 0x0#4 ++ 0x0#4 ++ 0x0#4 by rfl, BitVec.and_append, BitVec.and_append,
    BitVec.and_append]
  congr 3
  · exact BitVec.and_allOnes
  · exact BitVec.and_zero
  · exact BitVec.and_zero
  · exact BitVec.and_zero

theorem encodeXYN_classLow (hi : Nibble) (x y : Reg) (n : Nibble) :
    encodeXYN hi x y n &&& 0xF00F#16 = hi ++ 0#4 ++ 0#4 ++ n := by
  rw [encodeXYN, show 0xF00F#16 = 0xF#4 ++ 0x0#4 ++ 0x0#4 ++ 0xF#4 by rfl, BitVec.and_append, BitVec.and_append,
    BitVec.and_append]
  congr 3
  · exact BitVec.and_allOnes
  · exact BitVec.and_zero
  · exact BitVec.and_zero
  · exact BitVec.and_allOnes

/-- A class-0 word that meets the row of `CLS` or `RET` has that row's low byte. -/
theorem encodeNNN_lowByte (addr : Addr12) (lo : Byte) (h : encodeNNN 0x0#4 addr &&& 0xF0FF#16 = 0x0#4 ++ 0x0#4 ++ lo) :
    addr.extractLsb' 0 8 = lo := by
  ext i hi
  have hb := congrArg (fun w => BitVec.getLsbD w i) h
  have h1 : (0xF0FF#16).getLsbD i = true := by interval_cases i <;> rfl
  simp only [encodeNNN, BitVec.getLsbD_and, h1, Bool.and_true, BitVec.getLsbD_append, hi, if_true,
    show i < 12 by omega] at hb
  simpa [BitVec.getLsbD_eq_getElem hi] using hb

/-! ### One lemma per constructor -/

theorem EncodedWordSelectsRow.cls : EncodedWordSelectsRow.Statement (.cls) :=
  fun _ => ⟨rfl, by simp [rowsBefore]⟩

theorem EncodedWordSelectsRow.ret : EncodedWordSelectsRow.Statement (.ret) :=
  fun _ => ⟨rfl, by simp [rowsBefore]⟩

theorem EncodedWordSelectsRow.sys (addr : Addr12) : EncodedWordSelectsRow.Statement (.sys addr) := by
  intro hwf
  simp only [Instr.wf, Instr.sysNotCls, Instr.sysNotRet, Bool.and_eq_true, bne_iff_ne] at hwf
  refine ⟨encodeNNN_class 0x0#4 addr, ?_⟩
  intro r hr
  simp only [rowsBefore, rowOf, List.mem_cons, List.not_mem_nil, or_false] at hr
  rcases hr with rfl | rfl
  · exact fun h => hwf.1 (encodeNNN_lowByte addr 0xE0#8 h)
  · exact fun h => hwf.2 (encodeNNN_lowByte addr 0xEE#8 h)

theorem EncodedWordSelectsRow.jp (addr : Addr12) : EncodedWordSelectsRow.Statement (.jp addr) :=
  fun _ => ⟨encodeNNN_class _ addr, by simp [rowsBefore]⟩

theorem EncodedWordSelectsRow.call (addr : Addr12) : EncodedWordSelectsRow.Statement (.call addr) :=
  fun _ => ⟨encodeNNN_class _ addr, by simp [rowsBefore]⟩

theorem EncodedWordSelectsRow.seImm (x : Reg) (kk : Byte) : EncodedWordSelectsRow.Statement (.seImm x kk) :=
  fun _ => ⟨encodeXKK_class _ x kk, by simp [rowsBefore]⟩

theorem EncodedWordSelectsRow.sneImm (x : Reg) (kk : Byte) : EncodedWordSelectsRow.Statement (.sneImm x kk) :=
  fun _ => ⟨encodeXKK_class _ x kk, by simp [rowsBefore]⟩

theorem EncodedWordSelectsRow.seReg (x y : Reg) : EncodedWordSelectsRow.Statement (.seReg x y) :=
  fun _ => ⟨encodeXYN_class _ x y _, by simp [rowsBefore]⟩

theorem EncodedWordSelectsRow.ldImm (x : Reg) (kk : Byte) : EncodedWordSelectsRow.Statement (.ldImm x kk) :=
  fun _ => ⟨encodeXKK_class _ x kk, by simp [rowsBefore]⟩

theorem EncodedWordSelectsRow.addImm (x : Reg) (kk : Byte) : EncodedWordSelectsRow.Statement (.addImm x kk) :=
  fun _ => ⟨encodeXKK_class _ x kk, by simp [rowsBefore]⟩

theorem EncodedWordSelectsRow.ldReg (x y : Reg) : EncodedWordSelectsRow.Statement (.ldReg x y) :=
  fun _ => ⟨encodeXYN_classLow _ x y _, by simp [rowsBefore]⟩

theorem EncodedWordSelectsRow.or (x y : Reg) : EncodedWordSelectsRow.Statement (.or x y) :=
  fun _ => ⟨encodeXYN_classLow _ x y _, by simp [rowsBefore]⟩

theorem EncodedWordSelectsRow.and (x y : Reg) : EncodedWordSelectsRow.Statement (.and x y) :=
  fun _ => ⟨encodeXYN_classLow _ x y _, by simp [rowsBefore]⟩

theorem EncodedWordSelectsRow.xor (x y : Reg) : EncodedWordSelectsRow.Statement (.xor x y) :=
  fun _ => ⟨encodeXYN_classLow _ x y _, by simp [rowsBefore]⟩

theorem EncodedWordSelectsRow.addReg (x y : Reg) : EncodedWordSelectsRow.Statement (.addReg x y) :=
  fun _ => ⟨encodeXYN_classLow _ x y _, by simp [rowsBefore]⟩

theorem EncodedWordSelectsRow.sub (x y : Reg) : EncodedWordSelectsRow.Statement (.sub x y) :=
  fun _ => ⟨encodeXYN_classLow _ x y _, by simp [rowsBefore]⟩

theorem EncodedWordSelectsRow.shr (x y : Reg) : EncodedWordSelectsRow.Statement (.shr x y) :=
  fun _ => ⟨encodeXYN_classLow _ x y _, by simp [rowsBefore]⟩

theorem EncodedWordSelectsRow.subn (x y : Reg) : EncodedWordSelectsRow.Statement (.subn x y) :=
  fun _ => ⟨encodeXYN_classLow _ x y _, by simp [rowsBefore]⟩

theorem EncodedWordSelectsRow.shl (x y : Reg) : EncodedWordSelectsRow.Statement (.shl x y) :=
  fun _ => ⟨encodeXYN_classLow _ x y _, by simp [rowsBefore]⟩

theorem EncodedWordSelectsRow.sneReg (x y : Reg) : EncodedWordSelectsRow.Statement (.sneReg x y) :=
  fun _ => ⟨encodeXYN_class _ x y _, by simp [rowsBefore]⟩

theorem EncodedWordSelectsRow.ldI (addr : Addr12) : EncodedWordSelectsRow.Statement (.ldI addr) :=
  fun _ => ⟨encodeNNN_class _ addr, by simp [rowsBefore]⟩

theorem EncodedWordSelectsRow.jpV0 (addr : Addr12) : EncodedWordSelectsRow.Statement (.jpV0 addr) :=
  fun _ => ⟨encodeNNN_class _ addr, by simp [rowsBefore]⟩

theorem EncodedWordSelectsRow.rnd (x : Reg) (kk : Byte) : EncodedWordSelectsRow.Statement (.rnd x kk) :=
  fun _ => ⟨encodeXKK_class _ x kk, by simp [rowsBefore]⟩

theorem EncodedWordSelectsRow.drw (x y : Reg) (n : Nibble) : EncodedWordSelectsRow.Statement (.drw x y n) :=
  fun _ => ⟨encodeXYN_class _ x y n, by simp [rowsBefore]⟩

theorem EncodedWordSelectsRow.skp (x : Reg) : EncodedWordSelectsRow.Statement (.skp x) :=
  fun _ => ⟨encodeXKK_classLow _ x _, by simp [rowsBefore]⟩

theorem EncodedWordSelectsRow.sknp (x : Reg) : EncodedWordSelectsRow.Statement (.sknp x) :=
  fun _ => ⟨encodeXKK_classLow _ x _, by simp [rowsBefore]⟩

theorem EncodedWordSelectsRow.ldVxDT (x : Reg) : EncodedWordSelectsRow.Statement (.ldVxDT x) :=
  fun _ => ⟨encodeXKK_classLow _ x _, by simp [rowsBefore]⟩

theorem EncodedWordSelectsRow.ldVxK (x : Reg) : EncodedWordSelectsRow.Statement (.ldVxK x) :=
  fun _ => ⟨encodeXKK_classLow _ x _, by simp [rowsBefore]⟩

theorem EncodedWordSelectsRow.ldDTVx (x : Reg) : EncodedWordSelectsRow.Statement (.ldDTVx x) :=
  fun _ => ⟨encodeXKK_classLow _ x _, by simp [rowsBefore]⟩

theorem EncodedWordSelectsRow.ldSTVx (x : Reg) : EncodedWordSelectsRow.Statement (.ldSTVx x) :=
  fun _ => ⟨encodeXKK_classLow _ x _, by simp [rowsBefore]⟩

theorem EncodedWordSelectsRow.addI (x : Reg) : EncodedWordSelectsRow.Statement (.addI x) :=
  fun _ => ⟨encodeXKK_classLow _ x _, by simp [rowsBefore]⟩

theorem EncodedWordSelectsRow.ldF (x : Reg) : EncodedWordSelectsRow.Statement (.ldF x) :=
  fun _ => ⟨encodeXKK_classLow _ x _, by simp [rowsBefore]⟩

theorem EncodedWordSelectsRow.ldB (x : Reg) : EncodedWordSelectsRow.Statement (.ldB x) :=
  fun _ => ⟨encodeXKK_classLow _ x _, by simp [rowsBefore]⟩

theorem EncodedWordSelectsRow.storeRegs (x : Reg) : EncodedWordSelectsRow.Statement (.storeRegs x) :=
  fun _ => ⟨encodeXKK_classLow _ x _, by simp [rowsBefore]⟩

theorem EncodedWordSelectsRow.loadRegs (x : Reg) : EncodedWordSelectsRow.Statement (.loadRegs x) :=
  fun _ => ⟨encodeXKK_classLow _ x _, by simp [rowsBefore]⟩

end Sys2Proof.Laws
end

