-- ==== Sys2Proof/Tests/Slice0.lean ====
section
/-!
SUPPORT. Tests of the model against the spec's own vectors (spec/95_test_vectors.md, the row named in each comment), the
smoke tests of the well-formedness checks, the decoding of one word per instruction written out from 30_encoding.md R66,
and a witness for every obligation that has hypotheses.
-/

namespace Sys2Proof.Tests

open Sys2Proof.Machine Sys2Proof.Claims

/-! ### Small states -/

/-- A machine with both switches off and the raw glyph reading. -/
def cfgOff : Cfg := ⟨false, false, .raw, Config.defaultGlyphTable⟩

/-- A machine with both switches on and the masked glyph reading. -/
def cfgOn : Cfg := ⟨true, true, .mask, Config.defaultGlyphTable⟩

/-- The vectors' start state: as initialised, the first step's gate closed and its random byte 0. -/
def base : State := { State.init cfgOff with schedule := [⟨.free false, 0⟩] }

/-- The same with the switches on. -/
def baseOn : State := { base with cfg := cfgOn }

/-- The state with some registers set. -/
def regs (s : State) (l : List (Reg × Byte)) : State := l.foldl (fun s p => s.setReg p.1 p.2) s

/-- The state with some bytes stored at an address. -/
def bytes (s : State) (a : Nat) (l : List Byte) : State := s.writeBytes a l

/-- The state with `I` set. -/
def at_ (s : State) (a : Word) : State := s.setIndex a

/-- The state with one pixel lit. -/
def lit (s : State) (r : Fin 32) (c : Fin 64) : State := { s with fb := s.fb.setPixel r c true }

/-- The state after one step that runs the word `w` at `pc`; the state itself if the step does not answer a next state. -/
def after (s : State) (w : Nat) : State :=
  match step (s.withFetchWord 16 w) with
  | .next t => t
  | _ => s

/-- The pixels of a row that are lit, by column. -/
def litCols (s : State) (r : Fin 32) : List Nat := ((List.finRange 64).filter (fun c => s.pixel r c)).map (fun c => c.val)

/-! ### Well-formedness: an ill-formed term for each check, and a well-formed one -/

theorem test_wf_refuses_word_of_cls : (Instr.sys 0x1E0#12).wf = false := by decide
theorem test_wf_refuses_word_of_ret : (Instr.sys 0x3EE#12).wf = false := by decide
theorem test_wf_accepts_sys : (Instr.sys 0x123#12).wf = true := by decide

/-! ### Decoding: one word per instruction, from the patterns of 30_encoding.md R66 -/

theorem test_decode_class0 :
    decodeWord 0x00E0#16 = .ok .cls ∧ decodeWord 0x00EE#16 = .ok .ret ∧ decodeWord 0x0123#16 = .ok (.sys 0x123#12) := by
  decide
theorem test_decode_jumps :
    decodeWord 0x1234#16 = .ok (.jp 0x234#12) ∧ decodeWord 0x2300#16 = .ok (.call 0x300#12) ∧
    decodeWord 0xB3FE#16 = .ok (.jpV0 0x3FE#12) := by decide
theorem test_decode_skips :
    decodeWord 0x312A#16 = .ok (.seImm 1 0x2A#8) ∧ decodeWord 0x412A#16 = .ok (.sneImm 1 0x2A#8) ∧
    decodeWord 0x5230#16 = .ok (.seReg 2 3) ∧ decodeWord 0x923F#16 = .ok (.sneReg 2 3) := by decide
theorem test_decode_immediates :
    decodeWord 0x600A#16 = .ok (.ldImm 0 0x0A#8) ∧ decodeWord 0x7005#16 = .ok (.addImm 0 0x05#8) ∧
    decodeWord 0xC30F#16 = .ok (.rnd 3 0x0F#8) ∧ decodeWord 0xA2F0#16 = .ok (.ldI 0x2F0#12) := by decide
theorem test_decode_class8_logic :
    decodeWord 0x8120#16 = .ok (.ldReg 1 2) ∧ decodeWord 0x8121#16 = .ok (.or 1 2) ∧
    decodeWord 0x8122#16 = .ok (.and 1 2) ∧ decodeWord 0x8123#16 = .ok (.xor 1 2) := by decide
theorem test_decode_class8_flags :
    decodeWord 0x8AB4#16 = .ok (.addReg 0xA 0xB) ∧ decodeWord 0x8125#16 = .ok (.sub 1 2) ∧
    decodeWord 0x8126#16 = .ok (.shr 1 2) ∧ decodeWord 0x8127#16 = .ok (.subn 1 2) ∧
    decodeWord 0x812E#16 = .ok (.shl 1 2) := by decide
theorem test_decode_draw : decodeWord 0xD12F#16 = .ok (.drw 1 2 0xF#4) := by decide
theorem test_decode_classE : decodeWord 0xE29E#16 = .ok (.skp 2) ∧ decodeWord 0xE2A1#16 = .ok (.sknp 2) := by decide
theorem test_decode_classF_devices :
    decodeWord 0xF407#16 = .ok (.ldVxDT 4) ∧ decodeWord 0xF30A#16 = .ok (.ldVxK 3) ∧
    decodeWord 0xF415#16 = .ok (.ldDTVx 4) ∧ decodeWord 0xF418#16 = .ok (.ldSTVx 4) := by decide
theorem test_decode_classF_memory :
    decodeWord 0xF21E#16 = .ok (.addI 2) ∧ decodeWord 0xF329#16 = .ok (.ldF 3) ∧ decodeWord 0xF133#16 = .ok (.ldB 1) ∧
    decodeWord 0xFF55#16 = .ok (.storeRegs 15) ∧ decodeWord 0xF265#16 = .ok (.loadRegs 2) := by decide
/-- 2.6, X1 to X7. -/
theorem test_decode_illegal :
    decodeWord 0x8128#16 = .error (.illegalClass8 0x8128#16) ∧ decodeWord 0x812F#16 = .error (.illegalClass8 0x812F#16) ∧
    decodeWord 0xE19F#16 = .error (.illegalClassE 0xE19F#16) ∧ decodeWord 0xF1FF#16 = .error (.illegalClassF 0xF1FF#16) := by
  decide
theorem test_decode_bytes_big_endian :
    decode [0x60#8, 0x0A#8, 0x70#8] = .ok (.ldImm 0 0x0A#8, [0x70#8]) ∧ decode [0x60#8] = .error .truncated := by decide
theorem test_decode_table_word : decodeTableWord 16 0xD015 = some (.drw 0 1 5#4) := by decide
theorem test_encode_words :
    encode (.ldImm 0 0x0A#8) = 0x600A#16 ∧ encode (.drw 1 2 0xF#4) = 0xD12F#16 ∧ encode (.addReg 0xA 0xB) = 0x8AB4#16 ∧
    encode (.storeRegs 15) = 0xFF55#16 := by decide

/-! ### Control transfer (2.1) -/

/-- T1. -/
theorem test_sys : (after base 0x0123).pc = 0x202#16 ∧ (after base 0x0123).fault = none := by decide
/-- T5: an odd target is no fault. -/
theorem test_jp_odd : (after base 0x1201).pc = 0x201#16 ∧ (after base 0x1201).fault = none := by decide
/-- T6. -/
theorem test_call : (after base 0x2300).pc = 0x300#16 ∧ (after base 0x2300).sp = 1 ∧
    (after base 0x2300).stack[0] = 0x0202#16 := by decide
/-- T8. -/
theorem test_call_overflow :
    (after { base with sp := 16 } 0x2200).fault = some .stackOverflow ∧ (after { base with sp := 16 } 0x2200).pc = 0x200#16 := by
  decide
/-- T12 and T10: the popped entry as it is, by a word with bits 11:8 not 0. -/
theorem test_ret : (after { base with sp := 1, stack := base.stack.set 0 0x1000#16 } 0x03EE).pc = 0x1000#16 ∧
    (after { base with sp := 1, stack := base.stack.set 0 0x1000#16 } 0x03EE).sp = 0 := by decide
/-- T11. -/
theorem test_ret_underflow : (after base 0x00EE).fault = some .stackUnderflow ∧ (after base 0x00EE).pc = 0x200#16 := by decide
/-- T13, T14. -/
theorem test_seImm : (after (regs base [(1, 0x2A)]) 0x312A).pc = 0x204#16 ∧
    (after (regs base [(1, 0x2B)]) 0x312A).pc = 0x202#16 := by decide
/-- T15, T16. -/
theorem test_sneImm : (after (regs base [(1, 0x2A)]) 0x412A).pc = 0x202#16 ∧ (after base 0x412A).pc = 0x204#16 := by decide
/-- T18, T19. -/
theorem test_seReg : (after (regs base [(2, 7), (3, 8)]) 0x5230).pc = 0x202#16 ∧
    (after (regs base [(2, 7), (3, 7)]) 0x5231).pc = 0x204#16 := by decide
/-- T22, T23. -/
theorem test_sneReg : (after (regs base [(2, 7), (3, 7)]) 0x9230).pc = 0x202#16 ∧
    (after (regs base [(2, 7), (3, 8)]) 0x923F).pc = 0x204#16 := by decide
/-- T24: a skip past the end of memory raises nothing. -/
theorem test_skip_past_end : (after { base with pc := 0xFFE#16 } 0x3000).pc = 0x1002#16 ∧
    (after { base with pc := 0xFFE#16 } 0x3000).fault = none := by decide
/-- T27. -/
theorem test_jpV0 : (after (regs base [(0, 0xFF)]) 0xBFFF).pc = 0x10FE#16 := by decide

/-! ### Load and arithmetic-logic (2.2) -/

/-- A2. -/
theorem test_ldImm : (after base 0x6FAB).reg 15 = 0xAB#8 := by decide
/-- A3. -/
theorem test_addImm : (after (regs base [(1, 0xFF), (15, 7)]) 0x7101).reg 1 = 0x00#8 ∧
    (after (regs base [(1, 0xFF), (15, 7)]) 0x7101).reg 15 = 0x07#8 := by decide
/-- A5. -/
theorem test_ldReg : (after (regs base [(2, 0x33)]) 0x8120).reg 1 = 0x33#8 := by decide
/-- A6. -/
theorem test_or : (after (regs base [(1, 0xF0), (2, 0x0F), (15, 1)]) 0x8121).reg 1 = 0xFF#8 ∧
    (after (regs base [(1, 0xF0), (2, 0x0F), (15, 1)]) 0x8121).reg 15 = 1#8 := by decide
/-- A7. -/
theorem test_and : (after (regs base [(1, 0xF3), (2, 0x3F)]) 0x8122).reg 1 = 0x33#8 := by decide
/-- A8. -/
theorem test_xor : (after (regs base [(1, 0xFF), (2, 0x0F)]) 0x8123).reg 1 = 0xF0#8 := by decide
/-- A10, A11. -/
theorem test_addReg : (after (regs base [(1, 0xFF), (2, 0x01)]) 0x8124).reg 1 = 0x00#8 ∧
    (after (regs base [(1, 0xFF), (2, 0x01)]) 0x8124).reg 15 = 1#8 ∧
    (after (regs base [(1, 0x01), (2, 0x01), (15, 1)]) 0x8124).reg 15 = 0#8 := by decide
/-- A16, A15: with the destination `VF` the flag stays. -/
theorem test_addReg_vf : (after (regs base [(15, 0x10), (1, 0x20)]) 0x8F14).reg 15 = 0#8 ∧
    (after (regs base [(15, 0xF0), (1, 0x20)]) 0x8F14).reg 15 = 1#8 := by decide
/-- A19, A21. -/
theorem test_sub : (after (regs base [(1, 0x05), (2, 0x0A), (15, 1)]) 0x8125).reg 1 = 0xFB#8 ∧
    (after (regs base [(1, 0x05), (2, 0x0A), (15, 1)]) 0x8125).reg 15 = 0#8 ∧
    (after (regs base [(1, 0x42), (2, 0x42)]) 0x8125).reg 15 = 1#8 := by decide
/-- A25: the subtrahend is the old `VF`. -/
theorem test_sub_vf : (after (regs base [(1, 0x05), (15, 0x06)]) 0x81F5).reg 1 = 0xFF#8 ∧
    (after (regs base [(1, 0x05), (15, 0x06)]) 0x81F5).reg 15 = 0#8 := by decide
/-- A26, A27. -/
theorem test_subn : (after (regs base [(1, 0x0A), (2, 0x05), (15, 1)]) 0x8127).reg 1 = 0xFB#8 ∧
    (after (regs base [(1, 0x0A), (2, 0x05), (15, 1)]) 0x8127).reg 15 = 0#8 ∧
    (after (regs base [(1, 0x05), (2, 0x0A)]) 0x8127).reg 15 = 1#8 := by decide
/-- A29. -/
theorem test_shr_off : (after (regs base [(1, 0x05), (2, 0x08)]) 0x8126).reg 1 = 0x02#8 ∧
    (after (regs base [(1, 0x05), (2, 0x08)]) 0x8126).reg 15 = 1#8 := by decide
/-- A30, A33. -/
theorem test_shr_on : (after (regs baseOn [(1, 0x05), (2, 0x08)]) 0x8126).reg 1 = 0x04#8 ∧
    (after (regs baseOn [(1, 0x05), (2, 0x08)]) 0x8126).reg 2 = 0x08#8 ∧
    (after (regs baseOn [(15, 0x03), (0, 0x04)]) 0x8F06).reg 15 = 0#8 := by decide
/-- A36. -/
theorem test_shl_off : (after (regs base [(1, 0x81), (2, 0x40)]) 0x812E).reg 1 = 0x02#8 ∧
    (after (regs base [(1, 0x81), (2, 0x40)]) 0x812E).reg 15 = 1#8 := by decide
/-- A37. -/
theorem test_shl_on : (after (regs baseOn [(1, 0x81), (2, 0x40)]) 0x812E).reg 1 = 0x80#8 ∧
    (after (regs baseOn [(1, 0x81), (2, 0x40)]) 0x812E).reg 15 = 0#8 := by decide

/-! ### Index register and memory (2.3) -/

/-- M1. -/
theorem test_ldI : (after base 0xA2F0).index = 0x02F0#16 := by decide
/-- M3, M4. -/
theorem test_addI : (after (at_ (regs base [(2, 1), (15, 5)]) 0x0FFF#16) 0xF21E).index = 0x1000#16 ∧
    (after (at_ (regs base [(2, 1), (15, 5)]) 0x0FFF#16) 0xF21E).reg 15 = 5#8 ∧
    (after (at_ (regs base [(2, 2)]) 0xFFFF#16) 0xF21E).index = 0x0001#16 := by decide
/-- M7. -/
theorem test_ldF_digit : (after (regs base [(3, 0x0F)]) 0xF329).index = 0x004B#16 := by decide
/-- M11, both readings. -/
theorem test_ldF_overrange : (after (regs base [(3, 0xFF)]) 0xF329).index = 0x04FB#16 ∧
    (after (regs baseOn [(3, 0xFF)]) 0xF329).index = 0x004B#16 := by decide
/-- M12. -/
theorem test_ldB : (after (at_ (regs base [(1, 0x9C)]) 0x0300#16) 0xF133).readBytes 0x300 3 = [1, 5, 6] := by decide
/-- M18, M21: nothing is written, the lowest failing address is recorded. -/
theorem test_ldB_faults :
    (after (at_ (regs base [(1, 0xFF)]) 0x004E#16) 0xF133).fault = some (.glyphTableWrite 0x04E) ∧
    (after (at_ (regs base [(1, 0xFF)]) 0x004E#16) 0xF133).readBytes 0x04E 3 = [0x80, 0x80, 0x00] ∧
    (after (at_ (regs base [(1, 0x07)]) 0x0FFE#16) 0xF133).fault = some (.memoryOutOfBounds 0x1000) := by decide
/-- M23, M24, both switch values. -/
theorem test_storeRegs :
    (after (at_ (regs base [(0, 0x11), (1, 0x22)]) 0x0300#16) 0xF155).readBytes 0x300 3 = [0x11, 0x22, 0x00] ∧
    (after (at_ (regs base [(0, 0x11), (1, 0x22)]) 0x0300#16) 0xF155).index = 0x0300#16 ∧
    (after (at_ (regs baseOn [(0, 0x11)]) 0x0300#16) 0xF055).index = 0x0301#16 := by decide
/-- M26, M30. -/
theorem test_storeRegs_faults :
    (after (at_ base 0x0FF1#16) 0xFF55).fault = some (.memoryOutOfBounds 0x1000) ∧
    (after (at_ baseOn 0x0FF1#16) 0xFF55).index = 0x0FF1#16 ∧
    (after (at_ base 0xFFFF#16) 0xF055).fault = some (.memoryOutOfBounds 0xFFFF) := by decide
/-- M31, M32. -/
theorem test_loadRegs :
    (after (at_ (bytes baseOn 0x300 [0xAA, 0xBB]) 0x0300#16) 0xF165).reg 1 = 0xBB#8 ∧
    (after (at_ (bytes baseOn 0x300 [0xAA, 0xBB]) 0x0300#16) 0xF165).index = 0x0302#16 ∧
    (after base 0xF265).v.toList.take 4 = [0xF0, 0x90, 0x90, 0x00] := by decide
/-- M35: no register is loaded. -/
theorem test_loadRegs_fault :
    (after (at_ (regs base [(0, 1), (1, 2)]) 0x0FFF#16) 0xF165).fault = some (.memoryOutOfBounds 0x1000) ∧
    (after (at_ (regs base [(0, 1), (1, 2)]) 0x0FFF#16) 0xF165).reg 0 = 1#8 := by decide

/-! ### Display (2.4) -/

/-- D1. -/
theorem test_cls : litCols (after (lit (regs base [(15, 1)]) 31 63) 0x00E0) 31 = [] ∧
    (after (lit (regs base [(15, 1)]) 31 63) 0x00E0).reg 15 = 1#8 := by decide
/-- D9: both coordinates wrap. -/
theorem test_drw_wraps :
    litCols (after (at_ (bytes (regs base [(0, 0xFF), (1, 0xFF)]) 0x300 [0xFF]) 0x0300#16) 0xD011) 31 =
      [0, 1, 2, 3, 4, 5, 6, 63] := by decide
/-- D11, D4. -/
theorem test_drw_collision :
    litCols (after (at_ (bytes (lit (lit base 0 0) 0 1) 0x300 [0xA0]) 0x0300#16) 0xD011) 0 = [1, 2] ∧
    (after (at_ (bytes (lit (lit base 0 0) 0 1) 0x300 [0xA0]) 0x0300#16) 0xD011).reg 15 = 1#8 ∧
    (after (at_ (regs base [(15, 5)]) 0xFFFF#16) 0xD010).reg 15 = 0#8 := by decide

/-! ### Timers, keys, random (2.5) -/

/-- The start state with an open gate and random byte 0xB7. -/
def due : State := { base with schedule := [⟨.free true, 0xB7⟩] }

/-- K1: the read is after the tick. -/
theorem test_ldVxDT : (after { due with dt := 0x0A } 0xF407).reg 4 = 0x09#8 ∧ (after { due with dt := 0 } 0xF407).dt = 0#8 := by
  decide
/-- K4: what is written is not decremented by this step. -/
theorem test_ldDTVx : (after { (regs due [(4, 0x3C)]) with dt := 0x0A } 0xF415).dt = 0x3C#8 := by decide
/-- K5. -/
theorem test_ldSTVx : (after { (regs due [(4, 2)]) with st := 0x0A } 0xF418).st = 0x02#8 ∧
    (after { (regs due [(4, 2)]) with st := 0x0A } 0xF418).soundActive = true := by decide
/-- K9, K11. -/
theorem test_skp : (after { (regs base [(2, 5)]) with key := some 5 } 0xE29E).pc = 0x204#16 ∧
    (after { (regs base [(2, 0x1A)]) with key := some 0x0A } 0xE29E).pc = 0x202#16 ∧
    (after { (regs base [(2, 0x1A)]) with key := some 0x0A } 0xE29E).key = none := by decide
/-- K12, K13. -/
theorem test_sknp : (after (regs base [(2, 5)]) 0xE2A1).pc = 0x204#16 ∧
    (after { (regs base [(2, 5)]) with key := some 5 } 0xE2A1).pc = 0x202#16 := by decide
/-- K16: key 0 is a key. -/
theorem test_ldVxK_takes : (after { (regs base [(3, 9)]) with key := some 0 } 0xF30A).reg 3 = 0#8 ∧
    (after { (regs base [(3, 9)]) with key := some 0 } 0xF30A).key = none ∧
    (after { (regs base [(3, 9)]) with key := some 0 } 0xF30A).pc = 0x202#16 := by decide
/-- K17. -/
theorem test_ldVxK_waits : (after { due with dt := 3, st := 1 } 0xF30A).pc = 0x200#16 ∧
    (after { due with dt := 3, st := 1 } 0xF30A).dt = 2#8 ∧
    (State.withFetchWord { due with dt := 3, st := 1 } 16 0xF30A).stepStatus = .waitingForInput := by decide
/-- K18, K21. -/
theorem test_rnd : (after due 0xC30F).reg 3 = 0x07#8 ∧ (after due 0xCFAA).reg 15 = 0xA2#8 := by decide

/-! ### Faults (2.6), host commands (2.7), the concrete gate (S10) -/

/-- X1, and a second step changes nothing. -/
theorem test_invalidOpcode : (after { due with dt := 5 } 0x8128).fault = some (.invalidOpcode 0x8128#16) ∧
    (after { due with dt := 5 } 0x8128).dt = 4#8 ∧ (after { due with dt := 5 } 0x8128).pc = 0x200#16 := by decide
/-- X8, second step. -/
theorem test_fetchOutOfBounds :
    (match step { due with pc := 0xFFF#16 } with
      | .next t => t.fault
      | _ => none) = some (.fetchOutOfBounds 0xFFF#16) := by decide
/-- H7. -/
theorem test_hostReset :
    let s := bytes (bytes { base with fault := some .stackOverflow, sp := 16, key := some 2 } 0x080 [0x55]) 0x300 [0x66]
    s.hostReset.fault = none ∧ s.hostReset.readByte 0x080 = 0x55#8 ∧ s.hostReset.readByte 0x300 = 0x00#8 ∧
      s.hostReset.key = none ∧ s.hostReset.sp = 0 := by decide
/-- H4: a second load overlays. -/
theorem test_loadProgram_overlays :
    (((base.loadProgram [0xAA, 0xBB, 0xCC, 0xDD]).1.loadProgram [0x11]).1).readBytes 0x200 4 = [0x11, 0xBB, 0xCC, 0xDD] := by
  decide
/-- H8. -/
theorem test_framebufferRead : ((lit base 1 2).framebufferRead)[66]? = some true := by decide
/-- S10, rows 1 to 3: 0.100 s after the reference ticks, 0.115 s (15 ms later) does not, 0.120 s does. -/
theorem test_gate : tickDue (some 0) (.clock 100000000) = true ∧ lastTickAfter (some 0) (.clock 100000000) = some 100000000 ∧
    tickDue (some 100000000) (.clock 115000000) = false ∧ tickDue (some 100000000) (.clock 120000000) = true := by decide
/-- 60_exceptions.md R173: the first step after a cleared reference only starts the interval. -/
theorem test_gate_first : tickDue none (.clock 7) = false ∧ lastTickAfter none (.clock 7) = some 7 := by decide
/-- 70_reset_and_hazards.md R206. -/
theorem test_finished : (base.withFetchWord 16 0x1200).finished = true ∧ (base.withFetchWord 16 0x1202).finished = false := by
  decide

/-! ### Witnesses: states and operands that meet the hypotheses of the obligations -/

/-- The base state with the word at 0x200. -/
def placed (w : Nat) : State := base.withFetchWord 16 w

theorem witness_InitialisationAndResetValues : base.readByte 0x04F = 0x80#8 ∧ base.readByte 0x050 = 0#8 ∧
    (bytes base 0x1FF [7, 8]).hostReset.readByte 0x1FF = 7#8 ∧ (bytes base 0x1FF [7, 8]).hostReset.readByte 0x200 = 0#8 ∧
    (bytes base 0xFFF [9]).hostReset.readByte 0xFFF = 0#8 := by decide
theorem witness_StepKeepsInvariant : (placed 0xF055).Inv ∧ ∃ t, step (placed 0xF055) = .next t := ⟨by decide, _, rfl⟩
theorem witness_ReachableStates :
    ∃ t, (State.init cfgOn).driveAll
      [.loadProgram [0x22, 0x00], .setKey (some 3), .clear, .stepWith ⟨.clock 5, 9⟩, .step, .reset] = .next t := ⟨_, rfl⟩
theorem witness_DecodeEncodeRoundTrip : (Instr.sys 0xFFF#12).wf = true ∧ (Instr.drw 15 0 15#4).wf = true := by decide
theorem witness_DecodedWordReencodes : decodeWord 0x0FEE#16 = .ok .ret ∧ decodeWord 0x523F#16 = .ok (.seReg 2 3) := by decide
theorem witness_OpcodeMap_low : Row 0x0FE0#16 0xF0FF#16 0x00E0#16 ∧ Row 0x0FEE#16 0xF0FF#16 0x00EE#16 ∧
    (Row 0x0FEF#16 0xF000#16 0x0000#16 ∧ ¬ Row 0x0FEF#16 0xF0FF#16 0x00E0#16 ∧ ¬ Row 0x0FEF#16 0xF0FF#16 0x00EE#16) ∧
    Row 0x1FFF#16 0xF000#16 0x1000#16 ∧ Row 0x2FFF#16 0xF000#16 0x2000#16 ∧ Row 0x3FFF#16 0xF000#16 0x3000#16 ∧
    Row 0x4FFF#16 0xF000#16 0x4000#16 ∧ Row 0x5FFF#16 0xF000#16 0x5000#16 ∧ Row 0x6FFF#16 0xF000#16 0x6000#16 ∧
    Row 0x7FFF#16 0xF000#16 0x7000#16 := by decide
theorem witness_OpcodeMap_class8 : Row 0x8FF0#16 0xF00F#16 0x8000#16 ∧ Row 0x8FF1#16 0xF00F#16 0x8001#16 ∧
    Row 0x8FF2#16 0xF00F#16 0x8002#16 ∧ Row 0x8FF3#16 0xF00F#16 0x8003#16 ∧ Row 0x8FF4#16 0xF00F#16 0x8004#16 ∧
    Row 0x8FF5#16 0xF00F#16 0x8005#16 ∧ Row 0x8FF6#16 0xF00F#16 0x8006#16 ∧ Row 0x8FF7#16 0xF00F#16 0x8007#16 ∧
    Row 0x8FFE#16 0xF00F#16 0x800E#16 := by decide
theorem witness_OpcodeMap_high : Row 0x9FFF#16 0xF000#16 0x9000#16 ∧ Row 0xAFFF#16 0xF000#16 0xA000#16 ∧
    Row 0xBFFF#16 0xF000#16 0xB000#16 ∧ Row 0xCFFF#16 0xF000#16 0xC000#16 ∧ Row 0xDFFF#16 0xF000#16 0xD000#16 ∧
    Row 0xEF9E#16 0xF0FF#16 0xE09E#16 ∧ Row 0xEFA1#16 0xF0FF#16 0xE0A1#16 ∧ Row 0xFF07#16 0xF0FF#16 0xF007#16 ∧
    Row 0xFF0A#16 0xF0FF#16 0xF00A#16 ∧ Row 0xFF15#16 0xF0FF#16 0xF015#16 ∧ Row 0xFF18#16 0xF0FF#16 0xF018#16 ∧
    Row 0xFF1E#16 0xF0FF#16 0xF01E#16 ∧ Row 0xFF29#16 0xF0FF#16 0xF029#16 ∧ Row 0xFF33#16 0xF0FF#16 0xF033#16 ∧
    Row 0xFF55#16 0xF0FF#16 0xF055#16 ∧ Row 0xFF65#16 0xF0FF#16 0xF065#16 := by decide
theorem witness_StepRunsDecodedInstruction : Executes (placed 0x8FF4) (.addReg 15 15) := by decide
theorem witness_PlacedInstructionRuns :
    ({ base with pc := 0xFFE#16 } : State).memWf = true ∧ ({ base with pc := 0xFFE#16 } : State).pc.toNat + 1 ≤ 0xFFF ∧
      decodeTableWord 16 0x00E0 = some .cls := by decide
theorem witness_FaultedStepChangesNothing : ({ base with fault := some (.invalidOpcode 0xFFFF#16) } : State).fault =
    some (.invalidOpcode 0xFFFF#16) := rfl
theorem witness_OnlyResetClearsFault : ({ base with fault := some .stackOverflow } : State).fault = some .stackOverflow ∧
    Event.reset ∉ [Event.step, .setKey none, .loadProgram [1], .clear] ∧
    ∃ t, ({ base with fault := some .stackOverflow } : State).driveAll [.step, .setKey none, .loadProgram [1], .clear] = .next t :=
  ⟨rfl, by decide, _, rfl⟩
theorem witness_FetchPastMemoryFaults : ({ base with pc := 0xFFF#16 } : State).fault = none ∧
    0xFFF ≤ ({ base with pc := 0xFFF#16 } : State).pc.toNat := by decide
theorem witness_IllegalWordFaults : (placed 0x8008).fault = none ∧ (placed 0x8008).pc.toNat + 1 ≤ 0xFFF ∧
    0x8008#16 = (placed 0x8008).readByte 0x200 ++ (placed 0x8008).readByte 0x201 ∧
    Illegal 0x8008#16 ∧ Illegal 0xE000#16 ∧ Illegal 0xFFFF#16 := by unfold Illegal; decide
theorem witness_FaultsArePrecise : (placed 0x00EE).fault = none ∧
    ∃ t, step (placed 0x00EE) = .next t ∧ t.fault = some .stackUnderflow := ⟨by decide, _, rfl, rfl⟩
theorem witness_ProgramCounterAfterInstruction_raise : (placed 0x00EE).fault = none ∧
    ∃ t, step (placed 0x00EE) = .next t ∧ t.fault ≠ none := ⟨by decide, _, rfl, nofun⟩
theorem witness_ProgramCounterAfterInstruction : ({ base with sp := 1 } : State).fault = none ∧
    ∃ t, exec .ret { base with sp := 1 } = .next t ∧ t.fault = none := ⟨rfl, _, rfl, rfl⟩
theorem witness_RegistersWrittenOnlyAsDestinations : ¬ MayWrite (.loadRegs 14) 15 ∧
    ∃ t, exec (.loadRegs 14) base = .next t := ⟨by unfold MayWrite; decide, _, rfl⟩
theorem witness_FlagsAreZeroOrOne : WritesFlag (.drw 15 15 15) ∧ base.fault = none ∧
    ∃ t, exec (.drw 15 15 15) base = .next t ∧ t.fault = none := ⟨trivial, rfl, _, rfl, rfl⟩
theorem witness_OnlyIndexInstructionsWriteIndex :
    (∃ t, exec (.ldI 5) base = .next t ∧ t.index ≠ base.index) ∧
    ∃ t, exec (.loadRegs 0) baseOn = .next t ∧ t.index ≠ baseOn.index := ⟨⟨_, rfl, by decide⟩, _, rfl, by decide⟩
theorem witness_OnlyCallAndRetTouchTheStack : ∃ t, exec (.call 5) base = .next t ∧ t.sp ≠ base.sp ∧ t.stack ≠ base.stack :=
  ⟨_, rfl, by decide, by decide⟩
theorem witness_OnlyClsAndDrwWriteTheScreen : ∃ t, exec .cls (lit base 0 0) = .next t ∧ t.fb ≠ (lit base 0 0).fb :=
  ⟨_, rfl, by decide⟩
theorem witness_OnlyStoresWriteMemory : ∃ t, exec (.storeRegs 0) (at_ (regs base [(0, 1)]) 0x050#16) = .next t ∧
    t.readByte 0x050 ≠ (at_ (regs base [(0, 1)]) 0x050#16).readByte 0x050 := ⟨_, rfl, by decide⟩
theorem witness_OnlyKeyInstructionsTouchTheLatch : (∃ t, exec (.skp 0) { base with key := some 1 } = .next t) ∧
    ((∀ x, Instr.cls ≠ .skp x ∧ Instr.cls ≠ .sknp x ∧ Instr.cls ≠ .ldVxK x) ∧ ∃ t, exec .cls base = .next t) :=
  ⟨⟨_, rfl⟩, fun _ => ⟨nofun, nofun, nofun⟩, _, rfl⟩
theorem witness_TimersFallByAtMostOneAStep : (∃ t, step (placed 0x0000) = .next t) ∧
    (∀ x, ¬ Executes (placed 0x0000) (.ldDTVx x)) ∧ ∀ x, ¬ Executes (placed 0x0000) (.ldSTVx x) :=
  ⟨⟨_, rfl⟩, by decide, by decide⟩
theorem witness_CallPushesAndJumps : ({ base with sp := 15 } : State).sp.val < 16 ∧ ({ base with sp := 16 } : State).sp.val = 16 := by
  decide
theorem witness_RetPopsIntoPc : ({ base with sp := 16 } : State).sp.val ≠ 0 ∧ base.sp.val = 0 := by decide
theorem witness_CallThenRetReturns : ({ base with sp := 15 } : State).sp.val < 16 := by decide
theorem witness_ShiftsMoveOneBitOut :
    (0x81#8 = if (regs baseOn [(1, 0x81)]).cfg.shiftUsesVy = true then (regs baseOn [(1, 0x81)]).reg 1 else
      (regs baseOn [(1, 0x81)]).reg 15) ∧
    (0x81#8 = if (regs base [(1, 0x81)]).cfg.shiftUsesVy = true then (regs base [(1, 0x81)]).reg 15 else
      (regs base [(1, 0x81)]).reg 1) := by decide
theorem witness_GlyphOffset : ((regs base [(0, 15)]).reg 0).toNat ≤ 15 ∧
    (((regs base [(0, 16)]).reg 0).toNat > 15 ∧ base.cfg.glyphOverrange = .raw) ∧
    (((regs baseOn [(0, 16)]).reg 0).toNat > 15 ∧ baseOn.cfg.glyphOverrange = .mask) := by decide
theorem witness_BcdStoresThreeDigits : (at_ base 0xFFD#16).memWf = true ∧ (0x04F < (at_ base 0x050#16).dataAddr ∧
    (at_ base 0xFFD#16).dataAddr + 2 ≤ 0xFFF) ∧ (at_ base 0x04F#16).dataAddr ≤ 0x04F ∧
    0xFFF < (at_ base 0xFFE#16).dataAddr + 2 ∧ max 0x1000 (at_ base 0xFFE#16).dataAddr = 0x1000 ∧
    max 0x1000 (at_ base 0x1001#16).dataAddr = 0x1001 := by decide
theorem witness_BlockStoreWritesRegisters : (at_ baseOn 0xFF0#16).memWf = true ∧ (0x04F < (at_ baseOn 0xFF0#16).dataAddr ∧
    (at_ baseOn 0xFF0#16).dataAddr + (15 : Reg).val ≤ 0xFFF) ∧ 0x04F < (at_ base 0x050#16).dataAddr ∧
    (at_ base 0x04F#16).dataAddr ≤ 0x04F ∧ 0xFFF < (at_ base 0xFF1#16).dataAddr + (15 : Reg).val ∧
    0xFFF < (at_ base 0x1000#16).dataAddr + (0 : Reg).val := by decide
theorem witness_BlockLoadReadsRegisters : (at_ base 0xFFF#16).dataAddr + (0 : Reg).val ≤ 0xFFF ∧
    base.dataAddr + (15 : Reg).val ≤ 0xFFF ∧ 0xFFF < (at_ base 0xFF1#16).dataAddr + (15 : Reg).val := by decide
theorem witness_StoredBytesAreFetched : (at_ base 0xFFE#16).memWf = true ∧ 0x04F < (at_ base 0xFFE#16).dataAddr ∧
    (at_ base 0xFFE#16).dataAddr + (1 : Reg).val ≤ 0xFFF ∧ (0 : Reg).val + 1 < 16 ∧ (0 : Reg).val + 1 ≤ (1 : Reg).val := by decide
theorem witness_DrawXorsTheSprite : ((0 : Nibble).toNat = 0 ∨ (at_ base 0xFFFF#16).dataAddr + (0 : Nibble).toNat - 1 ≤ 0xFFF) ∧
    ((15 : Nibble).toNat = 0 ∨ (at_ base 0xFF1#16).dataAddr + (15 : Nibble).toNat - 1 ≤ 0xFFF) ∧
    ((15 : Nibble).toNat ≠ 0 ∧ 0xFFF < (at_ base 0xFF2#16).dataAddr + (15 : Nibble).toNat - 1) := by decide
theorem witness_DrawingTwiceRestoresTheScreen : (0 : Reg) ≠ Reg.vf ∧ (14 : Reg) ≠ Reg.vf ∧
    ((15 : Nibble).toNat = 0 ∨ base.dataAddr + (15 : Nibble).toNat - 1 ≤ 0xFFF) ∧
    (∀ r c, SpriteSets base (base.reg 0) (base.reg 14) 15 r c → base.pixel r c = false) :=
  ⟨by decide, by decide, by decide, fun r c _ => by
    show Framebuffer.blank.pixel r c = false
    simp [Framebuffer.pixel, Framebuffer.blank]⟩
theorem witness_TickPrecedesTimerAccess : Executes (placed 0xF407) (.ldVxDT 4) ∧ Executes (placed 0xF415) (.ldDTVx 4) ∧
    Executes (placed 0xF418) (.ldSTVx 4) := by decide
theorem witness_TickCountsBothTimersDown : tickDue due.lastTick due.input.gate = true ∧
    tickDue base.lastTick base.input.gate = false := by decide
theorem witness_CloseTicksDecrementAtMostOnce : 60 * (16666666 - 0) < 1000000000 := by decide
theorem witness_KeyWaitTakesOrRepeats : ({ base with key := some 0 } : State).key = some 0 ∧ base.key = none ∧
    Executes (placed 0xF30A) (.ldVxK 3) ∧ (placed 0xF30A).key = none := by decide
theorem witness_SoundTimerIsNeverRead : (∃ t, exec (.ldSTVx 0) base = .next t) ∧ (∃ t, exec (.ldVxDT 0) base = .next t) ∧
    ∀ x, Instr.ldVxDT 0 ≠ .ldSTVx x := ⟨⟨_, rfl⟩, ⟨_, rfl⟩, nofun⟩
theorem witness_SwitchesConcernOnlyTheirFamilies :
    ((∃ t, exec (.storeRegs 0) (at_ base 0x300#16) = .next t) ∧ ∀ x y, Instr.storeRegs 0 ≠ .shr x y ∧ Instr.storeRegs 0 ≠ .shl x y) ∧
    ((∃ t, exec (.shr 0 1) base = .next t) ∧ ∀ x, Instr.shr 0 1 ≠ .storeRegs x ∧ Instr.shr 0 1 ≠ .loadRegs x) :=
  ⟨⟨⟨_, rfl⟩, fun _ _ => ⟨nofun, nofun⟩⟩, ⟨_, rfl⟩, fun _ => ⟨nofun, nofun⟩⟩
theorem witness_WaitingStepOnlyTicks : (Executes (placed 0xF30A) (.ldVxK 3) ∧ (placed 0xF30A).key = none) ∧
    (placed 0xF30A).stepStatus = .waitingForInput := by decide
theorem witness_LoadProgramWritesMemoryOnly : base.memWf = true ∧ (List.replicate 3583 (1 : Byte)).length ≤ 3583 ∧
    3583 < (List.replicate 3584 (1 : Byte)).length ∧ ∃ t r, base.loadProgram [0x60, 0x0A] = (t, r) :=
  ⟨by decide, List.length_replicate.le, List.length_replicate.symm ▸ (by decide : 3583 < 3584), _, _, rfl⟩
theorem witness_FinishedRunOnlyTicks : (placed 0x1200).finished = true := by decide

end Sys2Proof.Tests
end

section
/-!
SUPPORT. The frame `Keeps` of a state to itself, and under the commits of `pc`, which it does not mention.
-/

namespace Sys2Proof.Claims

open Sys2Proof.Machine

variable {but : List Part} {dests : List Reg} {s t : State}

theorem Keeps.refl (but : List Part) (dests : List Reg) (s : State) : Keeps but dests s s := by
  simp [Keeps]

/-- `pc` is the one field that `jump` sets, and no part of the frame. -/
theorem Keeps.jump (h : Keeps but dests s t) (a : Word) : Keeps but dests s (t.jump a) := h

theorem Keeps.advance (h : Keeps but dests s t) : Keeps but dests s t.advance := h.jump _

theorem Keeps.skipIf (h : Keeps but dests s t) (c : Bool) : Keeps but dests s (t.skipIf c) := h.jump _

end Sys2Proof.Claims
end

section
/-!
PROOFS. Control transfer (41_control_flow.md): `SYS`, the two jumps, the four register skips.
-/

namespace Sys2Proof.Claims

open Sys2Proof.Machine

/-- An address and a byte add up to at most 0x10FE, so the 16-bit sum of `JP V0, addr` does not wrap (R100). -/
theorem addrWord_add_byte_toNat (addr : Addr12) (b : Byte) :
    (addrWord addr + b.setWidth 16).toNat = addr.toNat + b.toNat := by
  have := addr.isLt
  have := b.isLt
  rw [BitVec.toNat_add, addrWord_toNat, BitVec.toNat_setWidth]
  omega

/-- The commit of a skip if equal (R96, R98). -/
theorem skipIf_beq_pc (s : State) (a b : Byte) :
    (s.skipIf (a == b)).pc = s.pc + (if a = b then 4#16 else 2#16) := by
  by_cases h : a = b <;> simp [h]

/-- The commit of a skip if not equal (R97, R99). -/
theorem skipIf_bne_pc (s : State) (a b : Byte) :
    (s.skipIf (a != b)).pc = s.pc + (if a = b then 2#16 else 4#16) := by
  by_cases h : a = b <;> simp [h]

/-- Settles O27: the instruction only commits the default `next_pc`. -/
theorem sysOnlyAdvances : Obligations.SysOnlyAdvances :=
  fun _ s => ⟨s.advance, rfl, s.advance_pc, (Keeps.refl _ _ s).advance⟩

/-- Settles O28: both instructions are one `jump`; the offset sum does not wrap. -/
theorem jumpsGoToTheirTargets : Obligations.JumpsGoToTheirTargets := by
  refine ⟨fun addr s => ?_, fun addr s => ?_⟩
  · exact ⟨s.jump (addrWord addr), rfl, addrWord_toNat addr, (Keeps.refl _ _ s).jump _⟩
  · exact ⟨s.jump (addrWord addr + (s.reg 0).setWidth 16), rfl, addrWord_add_byte_toNat addr (s.reg 0),
      (Keeps.refl _ _ s).jump _⟩

/-- Settles O32: each instruction is one `skipIf`, on `==` for SE and on `!=` for SNE. -/
theorem skipsCompareRegisters : Obligations.SkipsCompareRegisters := by
  intro x y kk s
  have frame (c : Bool) : Keeps [] [] s (s.skipIf c) := (Keeps.refl _ _ s).skipIf c
  exact ⟨⟨_, rfl, skipIf_beq_pc s (s.reg x) kk, frame _⟩,
    ⟨_, rfl, skipIf_bne_pc s (s.reg x) kk, frame _⟩,
    ⟨_, rfl, skipIf_beq_pc s (s.reg x) (s.reg y), frame _⟩,
    ⟨_, rfl, skipIf_bne_pc s (s.reg x) (s.reg y), frame _⟩⟩

end Sys2Proof.Claims
end

section
/-!
PROOFS. Loads, immediate addition and bitwise logic (42_alu.md R110 to R115): every one of these instructions writes one
register and commits the default `next_pc`.
-/

namespace Sys2Proof.Claims

open Sys2Proof.Machine

/-- Writing a register that the frame excepts keeps the frame. -/
theorem Keeps.setReg {but : List Part} {dests : List Reg} {s t : State} {x : Reg} (h : Keeps but dests s t)
    (hx : x ∈ dests) (b : Byte) : Keeps but dests s (t.setReg x b) := by
  obtain ⟨hreg, hrest⟩ := h
  refine ⟨fun r hr => ?_, hrest⟩
  have hne : r ≠ x := fun heq => hr (heq ▸ hx)
  rw [State.reg_setReg_other _ _ _ _ hne, hreg r hr]

/-- The shape that the six instructions share: the register has the byte, `pc` is two higher, the rest is kept. -/
theorem setReg_advance_spec (x : Reg) (b : Byte) (s : State) :
    (s.setReg x b).advance.reg x = b ∧ (s.setReg x b).advance.pc = s.pc + 2#16 ∧
      Keeps [] [x] s (s.setReg x b).advance :=
  ⟨by simp, by simp, ((Keeps.refl [] [x] s).setReg (List.mem_singleton_self x) b).advance⟩

/-- Settles O33: the byte sum is the sum of the naturals modulo 256. -/
theorem immediateLoadAndAdd : Obligations.ImmediateLoadAndAdd := by
  intro x kk s
  refine ⟨⟨_, rfl, setReg_advance_spec x kk s⟩, ?_⟩
  obtain ⟨hreg, hpc, hkeeps⟩ := setReg_advance_spec x (s.reg x + kk) s
  have hsum := (congrArg BitVec.toNat hreg).trans (BitVec.toNat_add (s.reg x) kk)
  exact ⟨_, rfl, hsum, hpc, hkeeps⟩

/-- Settles O34: each instruction writes its result to `V[x]` and no other register. -/
theorem moveAndLogicSetNoFlag : Obligations.MoveAndLogicSetNoFlag :=
  fun x y s => ⟨⟨_, rfl, setReg_advance_spec x (s.reg y) s⟩,
    ⟨_, rfl, setReg_advance_spec x (s.reg x ||| s.reg y) s⟩,
    ⟨_, rfl, setReg_advance_spec x (s.reg x &&& s.reg y) s⟩,
    ⟨_, rfl, setReg_advance_spec x (s.reg x ^^^ s.reg y) s⟩⟩

end Sys2Proof.Claims
end

section
/-!
PROOFS. Clearing the screen (44_display.md R140): `CLS` replaces the framebuffer and commits the default `next_pc`.
-/

namespace Sys2Proof.Claims

open Sys2Proof.Machine

/-- Replacing the framebuffer keeps a frame that excepts the screen. -/
theorem Keeps.withScreen {but : List Part} {dests : List Reg} {s t : State} (h : Keeps but dests s t)
    (hscreen : Part.screen ∈ but) (fb : Framebuffer) : Keeps but dests s { t with fb := fb } := by
  obtain ⟨hreg, hindex, hmem, -, hrest⟩ := h
  exact ⟨hreg, hindex, hmem, fun hnot => absurd hscreen hnot, hrest⟩

/-- Settles O44: the new framebuffer is the blank one, and the commit of `pc` touches no pixel. -/
theorem clsClearsTheScreen : Obligations.ClsClearsTheScreen := by
  intro s
  have hkeeps : Keeps [.screen] [] s { s with fb := Framebuffer.blank } :=
    (Keeps.refl _ _ s).withScreen (List.mem_singleton_self _) _
  exact ⟨_, rfl, Framebuffer.pixel_blank, State.advance_pc _, hkeeps.advance⟩

end Sys2Proof.Claims
end

section
/-!
PROOFS. The timer tick (60_exceptions.md R171): both counters go through `countDown` under the one gate.
-/

namespace Sys2Proof.Claims

open Sys2Proof.Machine

/-- Settles O49: `countDown_open` with the gate open, `countDown_closed` with it closed, each once per counter; that
only the two counters and the gate's reference change is the form of `timerTick` itself. -/
theorem tickCountsBothTimersDown : Obligations.TickCountsBothTimersDown := by
  intro s
  refine ⟨fun hopen => ?_, fun hclosed => ?_, rfl⟩
  · rw [State.timerTick_dt, State.timerTick_st, hopen]
    exact ⟨countDown_open s.dt, countDown_open s.st⟩
  · rw [State.timerTick_dt, State.timerTick_st, hclosed]
    exact ⟨countDown_closed s.dt, countDown_closed s.st⟩

end Sys2Proof.Claims
end

section
/-!
PROOFS. The framebuffer read-out (70_reset_and_hazards.md R200): the list that the read-out builds row by row is the
library's `Vector.flatten`, whose length and entries the library knows.
-/

namespace Sys2Proof.Claims

open Sys2Proof.Machine

/-- The read-out as one vector, so that its 2048 entries are part of its type. -/
theorem framebufferRead_eq_flatten (s : State) : s.framebufferRead = s.fb.flatten.toList := by
  simp [State.framebufferRead, Vector.flatten, List.flatMap_def, Function.comp_def, Vector.toList]

theorem framebufferRead_length (s : State) : s.framebufferRead.length = 2048 := by
  rw [framebufferRead_eq_flatten, Vector.length_toList]

/-- Entry `64 r + c` lies in row `(64 r + c) / 64 = r` at column `(64 r + c) % 64 = c`. -/
theorem framebufferRead_entry (s : State) (r : Fin 32) (c : Fin 64) :
    s.framebufferRead[r.val * 64 + c.val]? = some (s.pixel r c) := by
  have hbound : r.val * 64 + c.val < 32 * 64 := by omega
  have hrow : (r.val * 64 + c.val) / 64 = r.val := by omega
  have hcol : (r.val * 64 + c.val) % 64 = c.val := by omega
  rw [framebufferRead_eq_flatten, Vector.getElem?_toList, Vector.getElem?_eq_getElem hbound,
    Vector.getElem_flatten hbound]
  simp only [hrow, hcol, State.pixel, Framebuffer.pixel]

/-- Settles O59: the length and the entries of the flattened framebuffer. -/
theorem framebufferReadIsRowMajor : Obligations.FramebufferReadIsRowMajor :=
  fun s => ⟨framebufferRead_length s, framebufferRead_entry s⟩

end Sys2Proof.Claims
end

section
/-!
PROOFS. What one instruction and one step can do to each part of the state, said once: the inversion of the arms that
have more than one outcome, the frame of every instruction, and the step in the terms of `Executes`.
-/

namespace Sys2Proof.Claims

open Sys2Proof.Machine

/-! ### The arms with more than one outcome -/

/-- `t` is what a raise in `s` answers: the latch set, everything else as it was (60_exceptions.md R161). -/
def RaisedFrom (s t : State) : Prop := ∃ f, t = { s with fault := some f }

theorem checked_next {check : Nat → Option Fault} {base n : Nat} {s t u : State}
    (h : checked check base n s (.next u) = .next t) :
    RaisedFrom s t ∨ (firstFault check base n = none ∧ t = u) := by
  rcases checked_cases check base n s (.next u) with ⟨hok, heq⟩ | ⟨f, -, heq⟩
  · rw [heq] at h
    cases h
    exact .inr ⟨hok, rfl⟩
  · rw [heq] at h
    cases h
    exact .inl ⟨f, rfl⟩

theorem execRet_next {s t : State} (h : execRet s = .next t) :
    RaisedFrom s t ∨ (s.sp.val ≠ 0 ∧ t = s.pop.2.jump s.pop.1) := by
  unfold execRet at h
  split at h
  · cases h
    exact .inl ⟨_, rfl⟩
  · next hsp =>
    cases h
    exact .inr ⟨hsp, rfl⟩

theorem execCall_next {addr : Addr12} {s t : State} (h : execCall addr s = .next t) :
    RaisedFrom s t ∨ ∃ hsp : s.sp.val < 16, t = (s.push s.nextPc hsp).jump (addrWord addr) := by
  unfold execCall at h
  split at h
  · next hsp =>
    cases h
    exact .inr ⟨hsp, rfl⟩
  · cases h
    exact .inl ⟨_, rfl⟩

theorem execLdVxK_waits {x : Reg} {s : State} (h : s.key = none) : execLdVxK x s = .next s := by
  simp [execLdVxK, h]

theorem execLdVxK_takes {x : Reg} {s : State} {k : Byte} (h : s.key = some k) :
    execLdVxK x s = .next (s.setReg x k).consumeKey.advance := by
  simp [execLdVxK, h]

theorem execLdVxK_next {x : Reg} {s t : State} (h : execLdVxK x s = .next t) :
    (s.key = none ∧ t = s) ∨ ∃ k, s.key = some k ∧ t = (s.setReg x k).consumeKey.advance := by
  cases hk : s.key with
  | none =>
    rw [execLdVxK_waits hk] at h
    cases h
    exact .inl ⟨rfl, rfl⟩
  | some k =>
    rw [execLdVxK_takes hk] at h
    cases h
    exact .inr ⟨k, rfl, rfl⟩

/-! ### The frame under each update -/

section Frames
variable {but : List Part} {dests : List Reg} {s t : State}

theorem Keeps.setIndex (h : Keeps but dests s t) (hbut : Part.index ∈ but) (a : Word) :
    Keeps but dests s (t.setIndex a) := by
  obtain ⟨hreg, -, hrest⟩ := h
  exact ⟨hreg, fun hnot => absurd hbut hnot, hrest⟩

theorem Keeps.bumpIndex (h : Keeps but dests s t) (hbut : Part.index ∈ but) (x : Reg) :
    Keeps but dests s (t.bumpIndex x) := by
  unfold State.bumpIndex
  split
  · exact h.setIndex hbut _
  · exact h

theorem Keeps.writeBytes (h : Keeps but dests s t) (hbut : Part.memory ∈ but) (a : Nat) (bs : List Byte) :
    Keeps but dests s (t.writeBytes a bs) := by
  obtain ⟨hreg, hindex, -, hrest⟩ := h
  refine ⟨fun r hr => ?_, fun hi => ?_, fun hnot => absurd hbut hnot, ?_⟩
  · rw [State.writeBytes_reg, hreg r hr]
  · rw [State.writeBytes_index, hindex hi]
  · simpa using hrest

theorem Keeps.push (h : Keeps but dests s t) (hbut : Part.stack ∈ but) (w : Word) (hsp : t.sp.val < 16) :
    Keeps but dests s (t.push w hsp) := by
  obtain ⟨hreg, hindex, hmem, hscreen, -, hrest⟩ := h
  exact ⟨hreg, hindex, hmem, hscreen, fun hnot => absurd hbut hnot, hrest⟩

theorem Keeps.pop (h : Keeps but dests s t) (hbut : Part.stack ∈ but) : Keeps but dests s t.pop.2 := by
  obtain ⟨hreg, hindex, hmem, hscreen, -, hrest⟩ := h
  exact ⟨hreg, hindex, hmem, hscreen, fun hnot => absurd hbut hnot, hrest⟩

theorem Keeps.withDelay (h : Keeps but dests s t) (hbut : Part.delay ∈ but) (b : Byte) :
    Keeps but dests s { t with dt := b } := by
  obtain ⟨hreg, hindex, hmem, hscreen, hstack, -, hrest⟩ := h
  exact ⟨hreg, hindex, hmem, hscreen, hstack, fun hnot => absurd hbut hnot, hrest⟩

theorem Keeps.withSound (h : Keeps but dests s t) (hbut : Part.sound ∈ but) (b : Byte) :
    Keeps but dests s { t with st := b } := by
  obtain ⟨hreg, hindex, hmem, hscreen, hstack, hdelay, -, hrest⟩ := h
  exact ⟨hreg, hindex, hmem, hscreen, hstack, hdelay, fun hnot => absurd hbut hnot, hrest⟩

theorem Keeps.setKey (h : Keeps but dests s t) (hbut : Part.latch ∈ but) (k : Option Byte) :
    Keeps but dests s (t.setKey k) := by
  obtain ⟨hreg, hindex, hmem, hscreen, hstack, hdelay, hsound, -, hrest⟩ := h
  exact ⟨hreg, hindex, hmem, hscreen, hstack, hdelay, hsound, fun hnot => absurd hbut hnot, hrest⟩

theorem Keeps.consumeKey (h : Keeps but dests s t) (hbut : Part.latch ∈ but) : Keeps but dests s t.consumeKey :=
  h.setKey hbut none

theorem Keeps.setResultAndFlag (h : Keeps but dests s t) {x : Reg} (hx : x ∈ dests) (hvf : Reg.vf ∈ dests) (b : Byte)
    (c : Bool) : Keeps but dests s (t.setResultAndFlag x b c) :=
  (h.setReg hx b).setReg hvf _

theorem Keeps.loadRegRun (h : Keeps but dests s t) {x : Reg} (hx : ∀ r ≤ x, r ∈ dests) (a : Nat) :
    Keeps but dests s (t.loadRegRun a x) := by
  obtain ⟨hreg, hrest⟩ := h
  refine ⟨fun r hr => ?_, hrest⟩
  have hnot : ¬ r ≤ x := fun hle => hr (hx r hle)
  rw [State.reg_loadRegRun, if_neg hnot, hreg r hr]

end Frames

/-! ### The frame of every instruction -/

/-- The parts of the state an instruction may change. -/
def partsOf : Instr → List Part
  | .cls | .drw _ _ _ => [.screen]
  | .ret | .call _ => [.stack]
  | .ldI _ | .addI _ | .ldF _ | .loadRegs _ => [.index]
  | .ldB _ => [.memory]
  | .storeRegs _ => [.memory, .index]
  | .skp _ | .sknp _ | .ldVxK _ => [.latch]
  | .ldDTVx _ => [.delay]
  | .ldSTVx _ => [.sound]
  | .sys _ | .jp _ | .jpV0 _ | .seImm _ _ | .sneImm _ _ | .seReg _ _ | .sneReg _ _ | .ldImm _ _ | .addImm _ _
  | .ldReg _ _ | .or _ _ | .and _ _ | .xor _ _ | .addReg _ _ | .sub _ _ | .subn _ _ | .shr _ _ | .shl _ _ | .rnd _ _
  | .ldVxDT _ => []

/-- The registers an instruction may write. -/
def destsOf : Instr → List Reg
  | .ldImm x _ | .addImm x _ | .ldReg x _ | .or x _ | .and x _ | .xor x _ | .rnd x _ | .ldVxDT x | .ldVxK x => [x]
  | .addReg x _ | .sub x _ | .subn x _ | .shr x _ | .shl x _ => [x, Reg.vf]
  | .drw _ _ _ => [Reg.vf]
  | .loadRegs x => (List.finRange 16).filter (· ≤ x)
  | .cls | .ret | .sys _ | .jp _ | .call _ | .seImm _ _ | .sneImm _ _ | .seReg _ _ | .sneReg _ _ | .ldI _ | .jpV0 _
  | .skp _ | .sknp _ | .ldDTVx _ | .ldSTVx _ | .addI _ | .ldF _ | .ldB _ | .storeRegs _ => []

/-- Every instruction raises, or keeps its frame. -/
theorem exec_frame {i : Instr} {s t : State} (h : exec i s = .next t) :
    RaisedFrom s t ∨ Keeps (partsOf i) (destsOf i) s t := by
  have kept : Keeps (partsOf i) (destsOf i) s s := Keeps.refl _ _ s
  cases i with
  | ret =>
    rcases execRet_next h with hr | ⟨-, rfl⟩
    · exact .inl hr
    · exact .inr ((kept.pop (by simp [partsOf])).jump _)
  | call addr =>
    rcases execCall_next h with hr | ⟨hsp, rfl⟩
    · exact .inl hr
    · exact .inr ((kept.push (by simp [partsOf]) _ hsp).jump _)
  | ldVxK x =>
    rcases execLdVxK_next h with ⟨-, rfl⟩ | ⟨k, -, rfl⟩
    · exact .inr kept
    · exact .inr ((kept.setReg (by simp [destsOf]) k).consumeKey (by simp [partsOf])).advance
  | drw x y n =>
    rcases checked_next h with hr | ⟨-, rfl⟩
    · exact .inl hr
    · exact .inr ((kept.withScreen (by simp [partsOf]) _).setReg (by simp [destsOf]) _).advance
  | ldB x =>
    rcases checked_next h with hr | ⟨-, rfl⟩
    · exact .inl hr
    · exact .inr (kept.writeBytes (by simp [partsOf]) _ _).advance
  | storeRegs x =>
    rcases checked_next h with hr | ⟨-, rfl⟩
    · exact .inl hr
    · exact .inr ((kept.writeBytes (by simp [partsOf]) _ _).bumpIndex (by simp [partsOf]) x).advance
  | loadRegs x =>
    rcases checked_next h with hr | ⟨-, rfl⟩
    · exact .inl hr
    · exact .inr ((kept.loadRegRun (by simp [destsOf]) _).bumpIndex (by simp [partsOf]) x).advance
  | cls =>
    cases h
    exact .inr (kept.withScreen (by simp [partsOf]) _).advance
  | skp | sknp =>
    cases h
    exact .inr ((kept.consumeKey (by simp [partsOf])).skipIf _)
  | ldDTVx =>
    cases h
    exact .inr (kept.withDelay (by simp [partsOf]) _).advance
  | ldSTVx =>
    cases h
    exact .inr (kept.withSound (by simp [partsOf]) _).advance
  | ldI | addI | ldF =>
    cases h
    exact .inr (kept.setIndex (by simp [partsOf]) _).advance
  | addReg | sub | subn | shr | shl =>
    cases h
    exact .inr (kept.setResultAndFlag (by simp [destsOf]) (by simp [destsOf]) _ _).advance
  | ldImm | addImm | ldReg | or | and | xor | rnd | ldVxDT =>
    cases h
    exact .inr (kept.setReg (by simp [destsOf]) _).advance
  | seImm | sneImm | seReg | sneReg =>
    cases h
    exact .inr (kept.skipIf _)
  | sys | jp | jpV0 =>
    cases h
    exact .inr (kept.jump _)

/-- What an instruction does to the listed memory: nothing, or one run of bytes stored at `I`, inside memory and above
the glyph table, by `LD B` or `LD [I]`. -/
theorem exec_memory {i : Instr} {s t : State} (h : exec i s = .next t) :
    t.mem = s.mem ∨ ∃ bs, 0x050 ≤ s.dataAddr ∧ s.dataAddr + bs.length ≤ 4096 ∧
      t.mem = (s.writeBytes s.dataAddr bs).mem ∧
      ((∃ x, i = .ldB x ∧ bs.length = 3) ∨ ∃ x : Reg, i = .storeRegs x ∧ bs.length = x.val + 1) := by
  cases i with
  | ldB x =>
    rcases checked_next h with ⟨f, rfl⟩ | ⟨hok, rfl⟩
    · exact .inl rfl
    · obtain ⟨hlow, hhigh⟩ := writeRun_inside hok (by omega)
      exact .inr ⟨bcdDigits (s.reg x), hlow, hhigh, rfl, .inl ⟨x, rfl, rfl⟩⟩
  | storeRegs x =>
    rcases checked_next h with ⟨f, rfl⟩ | ⟨hok, rfl⟩
    · exact .inl rfl
    · obtain ⟨hlow, hhigh⟩ := writeRun_inside hok (by omega)
      have hlen := s.regRun_length x
      exact .inr ⟨s.regRun x, hlow, by omega, by simp, .inr ⟨x, rfl, hlen⟩⟩
  | ret =>
    rcases execRet_next h with ⟨f, rfl⟩ | ⟨-, rfl⟩ <;> exact .inl rfl
  | call addr =>
    rcases execCall_next h with ⟨f, rfl⟩ | ⟨hsp, rfl⟩ <;> exact .inl rfl
  | ldVxK x =>
    rcases execLdVxK_next h with ⟨-, rfl⟩ | ⟨k, -, rfl⟩ <;> exact .inl rfl
  | drw x y n =>
    rcases checked_next h with ⟨f, rfl⟩ | ⟨-, rfl⟩ <;> exact .inl rfl
  | loadRegs x =>
    rcases checked_next h with ⟨f, rfl⟩ | ⟨-, rfl⟩
    · exact .inl rfl
    · exact .inl (by simp)
  | cls | sys | jp | seImm | sneImm | seReg | ldImm | addImm | ldReg | or | and | xor | addReg | sub | shr | subn | shl
  | sneReg | ldI | jpV0 | rnd | skp | sknp | ldVxDT | ldDTVx | ldSTVx | addI | ldF =>
    cases h
    exact .inl rfl

/-! ### A step, in the terms of `Executes` -/

theorem decode_pair {b0 b1 : Byte} {i : Instr} :
    decode [b0, b1] = .ok (i, []) ↔ decodeWord (wordOfBytes b0 b1) = .ok i := by
  cases hdec : decodeWord (wordOfBytes b0 b1) <;> simp [decode, hdec]

/-- The two bytes at `pc` that `Executes` decodes are the word that stage 2 fetches. -/
theorem executes_iff {s : State} {i : Instr} :
    Executes s i ↔ s.fault = none ∧ ∃ w, s.fetchWord s.pc = .ok w ∧ decodeWord w = .ok i := by
  rw [Executes, decode_pair]
  refine and_congr_right fun _ => ⟨fun ⟨hpc, hdec⟩ => ⟨_, s.fetchWord_ok (by omega), hdec⟩, ?_⟩
  rintro ⟨w, hw, hdec⟩
  by_cases hpc : s.pc.toNat < 0xFFF
  · rw [s.fetchWord_ok hpc] at hw
    cases hw
    exact ⟨by omega, hdec⟩
  · rw [s.fetchWord_fault (by omega)] at hw
    cases hw

/-- Settles O10: the word at `pc` and the latch are untouched by the tick, so stages 2 to 4 run `i`. -/
theorem stepRunsDecodedInstruction : Obligations.StepRunsDecodedInstruction := by
  intro s i hexec
  obtain ⟨hfault, w, hw, hdec⟩ := executes_iff.mp hexec
  have htick : s.timerTick.fetchWord s.timerTick.pc = .ok w := hw
  simp only [step, hfault, fetchExecute, htick, hdec]

/-- Everything the next state of a step can be. -/
theorem step_next {s t : State} (h : step s = .next t) :
    (s.fault ≠ none ∧ t = s) ∨
    (s.fault = none ∧ ∃ u, RaisedFrom s.timerTick u ∧ t = u.nextInput) ∨
    ∃ i u, Executes s i ∧ exec i s.timerTick = .next u ∧ t = u.nextInput := by
  rcases step_cases s with ⟨hfault, heq⟩ | ⟨hfault, f, heq⟩ | ⟨hfault, w, i, hw, hdec, heq⟩
  · rw [heq] at h
    cases h
    exact .inl ⟨hfault, rfl⟩
  · rw [heq] at h
    cases h
    exact .inr (.inl ⟨hfault, _, ⟨f, rfl⟩, rfl⟩)
  · rw [heq] at h
    have hexec : Executes s i := executes_iff.mpr ⟨hfault, w, hw, hdec⟩
    cases hi : exec i s.timerTick with
    | next u =>
      rw [hi] at h
      cases h
      exact .inr (.inr ⟨i, u, hexec, hi, rfl⟩)
    | fault r =>
      rw [hi] at h
      cases h
    | refused r =>
      rw [hi] at h
      cases h

end Sys2Proof.Claims
end

section
/-!
PROOFS. The invariant (10_state.md R30): a step keeps it, host commands keep it, and so every reachable state meets it;
what initialisation and `reset()` leave (R29, 70_reset_and_hazards.md R193, R194).
-/

namespace Sys2Proof.Claims

open Sys2Proof.Machine

/-- The invariant speaks of memory and the configuration only. -/
theorem inv_congr {s t : State} (hs : s.Inv) (hmem : t.mem = s.mem) (hcfg : t.cfg = s.cfg) : t.Inv := by
  obtain ⟨hwf, hglyph⟩ := hs
  simp only [State.Inv, State.memWf, State.glyphsIntact, hmem, hcfg]
  exact ⟨hwf, hglyph⟩

theorem inv_writeBytes {s : State} (hs : s.Inv) {a : Nat} {bs : List Byte} (hlow : 0x050 ≤ a)
    (hhigh : a + bs.length ≤ 4096) : (s.writeBytes a bs).Inv :=
  ⟨s.memWf_writeBytes hs.1 a bs hhigh, s.glyphsIntact_writeBytes hs.2 a bs hlow⟩

theorem exec_keeps_cfg {i : Instr} {s t : State} (h : exec i s = .next t) : t.cfg = s.cfg := by
  rcases exec_frame h with ⟨f, rfl⟩ | ⟨-, -, -, -, -, -, -, -, -, hcfg, -⟩
  · rfl
  · exact hcfg

theorem exec_keeps_inv {i : Instr} {s t : State} (hs : s.Inv) (h : exec i s = .next t) : t.Inv := by
  have hcfg := exec_keeps_cfg h
  rcases exec_memory h with hmem | ⟨bs, hlow, hhigh, hmem, -⟩
  · exact inv_congr hs hmem hcfg
  · exact inv_congr (inv_writeBytes hs hlow hhigh) hmem (by rw [hcfg, State.writeBytes_cfg])

/-- Settles O3: of the three things a step can do, only running an instruction can touch memory, and a store passes the
checks of R44 first. -/
theorem stepKeepsInvariant : Obligations.StepKeepsInvariant := by
  intro s t hs h
  rcases step_next h with ⟨-, rfl⟩ | ⟨-, u, ⟨f, rfl⟩, rfl⟩ | ⟨i, u, -, hexec, rfl⟩
  · exact hs
  · exact inv_congr hs rfl rfl
  · have hu : u.Inv := exec_keeps_inv (s := s.timerTick) (inv_congr hs rfl rfl) hexec
    exact inv_congr hu rfl rfl

theorem step_keeps_cfg {s t : State} (h : step s = .next t) : t.cfg = s.cfg := by
  rcases step_next h with ⟨-, rfl⟩ | ⟨-, u, ⟨f, rfl⟩, rfl⟩ | ⟨i, u, -, hexec, rfl⟩
  · rfl
  · rfl
  · have hcfg := exec_keeps_cfg hexec
    exact hcfg

/-! ### Sequences of events -/

theorem stepWith_faulted {s : State} {f : Fault} (h : s.fault = some f) (input : StepInput) :
    s.stepWith input = .next s := by
  simp [State.stepWith, h]

/-- A step with a given input is a step from the state with that input put in front, or nothing on a faulted machine. -/
theorem stepWith_next {s t : State} {input : StepInput} (h : s.stepWith input = .next t) :
    t = s ∨ step { s with schedule := input :: s.schedule } = .next t := by
  unfold State.stepWith at h
  split at h
  · cases h
    exact .inl rfl
  · exact .inr h

theorem loadProgram_tooLong {s : State} {bytes : List Byte} (h : 3583 < bytes.length) :
    s.loadProgram bytes = (s, .programTooLarge bytes.length) := if_pos h

theorem loadProgram_fits {s : State} {bytes : List Byte} (h : bytes.length ≤ 3583) :
    s.loadProgram bytes = (s.writeBytes 0x200 bytes, .ok) := if_neg (Nat.not_lt.mpr h)

theorem loadProgram_cases (s : State) (bytes : List Byte) :
    (s.loadProgram bytes).1 = s ∨ (bytes.length ≤ 3583 ∧ (s.loadProgram bytes).1 = s.writeBytes 0x200 bytes) := by
  by_cases h : bytes.length ≤ 3583
  · exact .inr ⟨h, by rw [loadProgram_fits h]⟩
  · exact .inl (by rw [loadProgram_tooLong (by omega)])

/-- The induction over a sequence of events: what every event of it keeps holds at its end. -/
theorem driveAll_keeps {P : State → Prop} {es : List Event}
    (hdrive : ∀ e ∈ es, ∀ s t : State, P s → s.drive e = .next t → P t) {s t : State} (hs : P s)
    (h : s.driveAll es = .next t) : P t := by
  induction es generalizing s with
  | nil =>
    cases h
    exact hs
  | cons e es ih =>
    unfold State.driveAll at h
    split at h
    · next u hu =>
      exact ih (fun e' he' => hdrive e' (List.mem_cons_of_mem e he')) (hdrive e List.mem_cons_self s u hs hu) h
    · cases h
    · cases h

theorem drive_keeps_cfg {e : Event} {s t : State} (h : s.drive e = .next t) : t.cfg = s.cfg := by
  cases e with
  | step => exact step_keeps_cfg h
  | stepWith input =>
    rcases stepWith_next h with rfl | hstep
    · rfl
    · have hcfg := step_keeps_cfg hstep
      exact hcfg
  | loadProgram bytes =>
    cases h
    rcases loadProgram_cases s bytes with heq | ⟨-, heq⟩ <;> simp [heq]
  | setKey | clear | reset =>
    cases h
    rfl

theorem drive_keeps_inv {e : Event} {s t : State} (hs : s.Inv) (h : s.drive e = .next t) : t.Inv := by
  have hclear : s.clearProgram.Inv := ⟨s.memWf_clearProgram hs.1, s.glyphsIntact_clearProgram hs.2⟩
  cases e with
  | step => exact stepKeepsInvariant s t hs h
  | stepWith input =>
    rcases stepWith_next h with rfl | hstep
    · exact hs
    · have hgiven : ({ s with schedule := input :: s.schedule } : State).Inv := inv_congr hs rfl rfl
      exact stepKeepsInvariant _ t hgiven hstep
  | setKey k =>
    cases h
    exact inv_congr hs rfl rfl
  | loadProgram bytes =>
    cases h
    rcases loadProgram_cases s bytes with heq | ⟨hlen, heq⟩ <;> rw [heq]
    · exact hs
    · exact inv_writeBytes hs (by omega) (by omega)
  | clear =>
    cases h
    exact hclear
  | reset =>
    cases h
    exact inv_congr hclear rfl rfl

/-- Settles O2: nothing is listed in the memory of an initialised state. -/
theorem initialStateMeetsInvariant : Obligations.InitialStateMeetsInvariant :=
  ⟨fun _ => ⟨rfl, rfl⟩, rfl, rfl⟩

/-- Settles O4: the invariant and the parameters are kept by every event, and the invariant fixes the bytes below
0x050. -/
theorem reachableStatesKeepGlyphsAndParameters : Obligations.ReachableStatesKeepGlyphsAndParameters := by
  intro cfg es t h
  obtain ⟨hinv, hcfg⟩ : t.Inv ∧ t.cfg = cfg :=
    driveAll_keeps (P := fun s => s.Inv ∧ s.cfg = cfg)
      (fun e _ s u hs hu => ⟨drive_keeps_inv hs.1 hu, (drive_keeps_cfg hu).trans hs.2⟩)
      ⟨initialStateMeetsInvariant.1 cfg, rfl⟩ h
  refine ⟨hinv, fun a => ?_, hcfg⟩
  rw [t.readByte_glyph hinv.2 a.isLt]
  simp only [hcfg]

/-! ### A latched fault -/

/-- Settles O12: the latch is what `step` looks at first. -/
theorem faultedStepChangesNothing : Obligations.FaultedStepChangesNothing := by
  intro s f h
  simp only [step, h]

theorem drive_keeps_fault {e : Event} {s t : State} {f : Fault} (he : e ≠ .reset) (hs : s.fault = some f)
    (h : s.drive e = .next t) : t.fault = some f := by
  cases e with
  | step =>
    cases (faultedStepChangesNothing s f hs).symm.trans h
    exact hs
  | stepWith input =>
    cases (stepWith_faulted hs input).symm.trans h
    exact hs
  | loadProgram bytes =>
    cases h
    rcases loadProgram_cases s bytes with heq | ⟨-, heq⟩ <;> simp [heq, hs]
  | setKey | clear =>
    cases h
    exact hs
  | reset => exact absurd rfl he

/-- Settles O13: no event but `reset()` changes the latch of a faulted machine. -/
theorem onlyResetClearsFault : Obligations.OnlyResetClearsFault := by
  intro s t f es hs hreset h
  exact driveAll_keeps (P := fun s => s.fault = some f)
    (fun e he s u hs hu => drive_keeps_fault (fun heq => hreset (heq ▸ he)) hs hu) hs h

/-! ### Initialisation and `reset()` -/

theorem readByte_init_glyph (cfg : Cfg) (a : Fin 80) : (State.init cfg).readByte a.val = cfg.glyphs[a.val] :=
  (State.init cfg).readByte_glyph rfl a.isLt

theorem readByte_init_above (cfg : Cfg) {a : Nat} (ha : 0x050 ≤ a) : (State.init cfg).readByte a = 0#8 := by
  have hnot : ¬ a < 80 := by omega
  exact dif_neg hnot

theorem readByte_hostReset (s : State) (a : Nat) :
    s.hostReset.readByte a = if a < 0x200 then s.readByte a else 0#8 := s.readByte_clearProgram a

/-- Settles O1: the initialised state lists no byte; `reset()` differs from it by the bytes that `clear()` keeps. -/
theorem initialisationAndResetValues : Obligations.InitialisationAndResetValues := by
  have hreg (r : Reg) : (Vector.replicate 16 0#8)[r.val] = 0#8 := Vector.getElem_replicate _
  have hstack (k : Fin 16) : (Vector.replicate 16 0#16)[k.val] = 0#16 := Vector.getElem_replicate _
  refine ⟨?_, fun s => ?_⟩
  · rintro cfg s rfl
    exact ⟨hreg, rfl, rfl, rfl, hstack, readByte_init_glyph cfg, fun a ha _ => readByte_init_above cfg ha,
      Framebuffer.pixel_blank, rfl, rfl, rfl, rfl, rfl, rfl⟩
  · refine ⟨hreg, rfl, rfl, rfl, hstack, fun a ha => ?_, fun a ha _ => ?_, Framebuffer.pixel_blank, rfl, rfl, rfl, rfl,
      rfl, rfl⟩
    · rw [readByte_hostReset, if_pos (by omega)]
    · rw [readByte_hostReset, if_neg (by omega)]

end Sys2Proof.Claims
end

section
/-!
PROOFS. The fields of an instruction word (30_encoding.md R61, R62): as naturals, as the word they make up, as they are
read back from an encoded word.
-/

namespace Sys2Proof.Claims

open Sys2Proof.Machine

/-! ### Fields -/

theorem hi_toNat (w : Word) : (Field.hi w).toNat = w.toNat / 4096 := by
  have := w.isLt
  simp only [Field.hi, BitVec.extractLsb'_toNat, Nat.shiftRight_eq_div_pow]
  omega

theorem n_toNat (w : Word) : (Field.n w).toNat = w.toNat % 16 := by
  simp [Field.n]

theorem kk_toNat (w : Word) : (Field.kk w).toNat = w.toNat % 256 := by
  simp [Field.kk]

theorem addr_eq_setWidth (w : Word) : Field.addr w = w.setWidth 12 := by
  simp [Field.addr, BitVec.setWidth_eq_extractLsb']

theorem kk_eq_setWidth (w : Word) : Field.kk w = w.setWidth 8 := by
  simp [Field.kk, BitVec.setWidth_eq_extractLsb']

theorem n_eq_setWidth (w : Word) : Field.n w = w.setWidth 4 := by
  simp [Field.n, BitVec.setWidth_eq_extractLsb']

theorem reg_eq_regAt (start : Nat) (w : Word) : Field.reg start w = regAt w start := by
  apply Fin.ext
  simp [Field.reg, regAt, Nat.shiftRight_eq_div_pow]

theorem bits_reg (start : Nat) (w : Word) : Reg.bits (Field.reg start w) = w.extractLsb' start 4 := rfl

/-! ### The word of given fields -/

/-- Two adjacent fields of a word, the higher one first, are one field. -/
theorem extract_append (w : Word) {lo len : Nat} (start : Nat) (len' : Nat) (hlo : lo = start + len') :
    w.extractLsb' lo len ++ w.extractLsb' start len' = w.extractLsb' start (len + len') := by
  subst hlo
  exact BitVec.extractLsb'_append_extractLsb'_eq_extractLsb' rfl

theorem encodeNNN_fields (w : Word) : encodeNNN (Field.hi w) (Field.addr w) = w :=
  (extract_append w 0 12 rfl).trans BitVec.extractLsb'_eq_self

theorem encodeXKK_fields (w : Word) : encodeXKK (Field.hi w) (Field.x w) (Field.kk w) = w := by
  unfold encodeXKK Field.hi Field.x Field.kk
  rw [bits_reg, extract_append w 8 4 rfl]
  exact (extract_append w 0 8 rfl).trans BitVec.extractLsb'_eq_self

theorem encodeXYN_fields (w : Word) : encodeXYN (Field.hi w) (Field.x w) (Field.y w) (Field.n w) = w := by
  unfold encodeXYN Field.hi Field.x Field.y Field.n
  rw [bits_reg, bits_reg, extract_append w 8 4 rfl, extract_append w 4 4 rfl]
  exact (extract_append w 0 4 rfl).trans BitVec.extractLsb'_eq_self

theorem wordOfBytes_split (w : Word) : wordOfBytes (Word.highByte w) (Word.lowByte w) = w :=
  (extract_append w 0 8 rfl).trans BitVec.extractLsb'_eq_self

/-! ### The fields of a word of given fields -/

theorem append_inj {m n : Nat} {a a' : BitVec m} {b b' : BitVec n} (h : a ++ b = a' ++ b') : a = a' ∧ b = b' := by
  have hhigh := congrArg (BitVec.extractLsb' n m) h
  have hlow := congrArg (BitVec.extractLsb' 0 n) h
  rw [BitVec.extractLsb'_append_eq_left, BitVec.extractLsb'_append_eq_left] at hhigh
  rw [BitVec.extractLsb'_append_eq_right, BitVec.extractLsb'_append_eq_right] at hlow
  exact ⟨hhigh, hlow⟩

theorem bits_inj {x x' : Reg} (h : Reg.bits x = Reg.bits x') : x = x' := congrArg BitVec.toFin h

theorem fields_encodeNNN (hi : Nibble) (addr : Addr12) :
    Field.hi (encodeNNN hi addr) = hi ∧ Field.addr (encodeNNN hi addr) = addr :=
  append_inj (encodeNNN_fields (encodeNNN hi addr))

theorem fields_encodeXKK (hi : Nibble) (x : Reg) (kk : Byte) :
    Field.hi (encodeXKK hi x kk) = hi ∧ Field.x (encodeXKK hi x kk) = x ∧ Field.kk (encodeXKK hi x kk) = kk := by
  obtain ⟨hupper, hkk⟩ := append_inj (encodeXKK_fields (encodeXKK hi x kk))
  obtain ⟨hhi, hx⟩ := append_inj hupper
  exact ⟨hhi, bits_inj hx, hkk⟩

theorem fields_encodeXYN (hi : Nibble) (x y : Reg) (n : Nibble) :
    Field.hi (encodeXYN hi x y n) = hi ∧ Field.x (encodeXYN hi x y n) = x ∧ Field.y (encodeXYN hi x y n) = y ∧
      Field.n (encodeXYN hi x y n) = n := by
  obtain ⟨hupper, hn⟩ := append_inj (encodeXYN_fields (encodeXYN hi x y n))
  obtain ⟨hupper, hy⟩ := append_inj hupper
  obtain ⟨hhi, hx⟩ := append_inj hupper
  exact ⟨hhi, bits_inj hx, bits_inj hy, hn⟩

theorem kk_of_addr (w : Word) : Field.kk w = (Field.addr w).extractLsb' 0 8 := by
  apply BitVec.eq_of_toNat_eq
  simp only [Field.kk, Field.addr, BitVec.extractLsb'_toNat, Nat.shiftRight_zero]
  omega

end Sys2Proof.Claims
end

section
/-!
PROOFS. Encoding and decoding are inverse on the examined bits (30_encoding.md sections 1 to 3): the word of an
instruction decodes to it, and what a word decodes to encodes to that word.
-/

namespace Sys2Proof.Claims

open Sys2Proof.Machine

/-- The dispatch sees the class and sub-opcode that the encoder wrote, and reads back the operands. -/
theorem decodeWord_encode (i : Instr) (hwf : i.wf = true) : decodeWord (encode i) = .ok i := by
  cases i with
  | cls | ret => decide
  | sys addr =>
    obtain ⟨hhi, haddr⟩ := fields_encodeNNN 0x0#4 addr
    simp only [Instr.wf, Instr.sysNotCls, Instr.sysNotRet, Bool.and_eq_true, bne_iff_ne] at hwf
    simp [encode, decodeWord, decodeClass0, hhi, haddr, kk_of_addr, hwf]
  | jp | call | ldI | jpV0 => simp [encode, decodeWord, fields_encodeNNN]
  | seImm | sneImm | ldImm | addImm | rnd => simp [encode, decodeWord, fields_encodeXKK]
  | seReg | sneReg | drw => simp [encode, decodeWord, fields_encodeXYN]
  | ldReg | or | and | xor | addReg | sub | shr | subn | shl =>
    simp [encode, decodeWord, decodeClass8, fields_encodeXYN]
  | skp | sknp => simp [encode, decodeWord, decodeClassE, fields_encodeXKK]
  | ldVxDT | ldVxK | ldDTVx | ldSTVx | addI | ldF | ldB | storeRegs | loadRegs =>
    simp [encode, decodeWord, decodeClassF, fields_encodeXKK]

/-- Settles O5: the two bytes of a word make that word again, high byte first. -/
theorem decodeEncodeRoundTrip : Obligations.DecodeEncodeRoundTrip := by
  intro i hwf
  have hword := decodeWord_encode i hwf
  refine ⟨hword, fun rest => ?_⟩
  simp only [encodeBytes, List.cons_append, List.nil_append, decode, wordOfBytes_split, hword]

/-- An instruction whose word is `w` is what `w` decodes to. -/
theorem decodeWord_of_encode {i : Instr} {w : Word} (hwf : i.wf = true) (hw : encode i = w) : decodeWord w = .ok i :=
  hw ▸ decodeWord_encode i hwf

/-! ### Encoding a decoded word -/

/-- The instruction has a word of its own, which agrees with `w` on every bit that decoding examines. -/
def Reencodes (w : Word) (i : Instr) : Prop := i.wf = true ∧ encode i &&& examined i = w &&& examined i

theorem reencodes_of_encode {i : Instr} {w : Word} (hwf : i.wf = true) (hw : encode i = w) : Reencodes w i :=
  ⟨hwf, by rw [hw]⟩

section WordOfFields
variable {w : Word} {hi n : Nibble} {lo : Byte}

theorem encodeNNN_of (hhi : Field.hi w = hi) : encodeNNN hi (Field.addr w) = w :=
  hhi ▸ encodeNNN_fields w

theorem encodeXK_of (hhi : Field.hi w = hi) : encodeXKK hi (Field.x w) (Field.kk w) = w :=
  hhi ▸ encodeXKK_fields w

theorem encodeXS_of (hhi : Field.hi w = hi) (hlo : Field.kk w = lo) : encodeXKK hi (Field.x w) lo = w :=
  hlo ▸ encodeXK_of hhi

theorem encodeXYN_of (hhi : Field.hi w = hi) : encodeXYN hi (Field.x w) (Field.y w) (Field.n w) = w :=
  hhi ▸ encodeXYN_fields w

theorem encodeXYS_of (hhi : Field.hi w = hi) (hn : Field.n w = n) : encodeXYN hi (Field.x w) (Field.y w) n = w :=
  hn ▸ encodeXYN_of hhi

/-- Masking out bits 11:8 keeps the class and the low byte. -/
theorem and_classLow (hhi : Field.hi w = hi) (hlo : Field.kk w = lo) : w &&& 0xF0FF#16 = hi ++ 0#4 ++ lo := by
  rw [← encodeXS_of hhi hlo]
  exact Laws.encodeXKK_classLow hi _ lo

/-- Masking out bits 3:0 forgets `n`. -/
theorem encodeXYN_and_operands (x y : Reg) :
    encodeXYN hi x y n &&& 0xFFF0#16 = hi ++ Reg.bits x ++ Reg.bits y ++ 0#4 := by
  rw [encodeXYN, show 0xFFF0#16 = 0xF#4 ++ 0xF#4 ++ 0xF#4 ++ 0x0#4 by rfl, BitVec.and_append, BitVec.and_append,
    BitVec.and_append]
  congr 3
  · exact BitVec.and_allOnes
  · exact BitVec.and_allOnes
  · exact BitVec.and_allOnes
  · exact BitVec.and_zero

theorem and_operands (hhi : Field.hi w = hi) :
    encodeXYN hi (Field.x w) (Field.y w) 0x0#4 &&& 0xFFF0#16 = w &&& 0xFFF0#16 := by
  rw [encodeXYN_and_operands, ← encodeXYN_and_operands (n := Field.n w), encodeXYN_of hhi]

theorem decodeClass0_reencodes (hhi : Field.hi w = 0x0#4) : Reencodes w (decodeClass0 w) := by
  unfold decodeClass0
  split
  · next hlo => exact ⟨rfl, (and_classLow hhi hlo).symm⟩
  · next hcls =>
    split
    · next hlo => exact ⟨rfl, (and_classLow hhi hlo).symm⟩
    · next hret =>
      rw [kk_of_addr] at hcls hret
      exact reencodes_of_encode (by simp [Instr.wf, Instr.sysNotCls, Instr.sysNotRet, hcls, hret]) (encodeNNN_of hhi)

theorem decodeClass8_reencodes {i : Instr} (hhi : Field.hi w = 0x8#4) (h : decodeClass8 w = .ok i) : Reencodes w i := by
  unfold decodeClass8 at h
  split_ifs at h with hn hn hn hn hn hn hn hn hn <;> cases h <;> exact reencodes_of_encode rfl (encodeXYS_of hhi hn)

theorem decodeClassE_reencodes {i : Instr} (hhi : Field.hi w = 0xE#4) (h : decodeClassE w = .ok i) : Reencodes w i := by
  unfold decodeClassE at h
  split_ifs at h with hlo hlo <;> cases h <;> exact reencodes_of_encode rfl (encodeXS_of hhi hlo)

theorem decodeClassF_reencodes {i : Instr} (hhi : Field.hi w = 0xF#4) (h : decodeClassF w = .ok i) : Reencodes w i := by
  unfold decodeClassF at h
  split_ifs at h with hlo hlo hlo hlo hlo hlo hlo hlo hlo <;> cases h <;>
    exact reencodes_of_encode rfl (encodeXS_of hhi hlo)

end WordOfFields

/-- The sixteen values of a nibble, and so the sixteen classes. -/
theorem nibble_cases (h : Nibble) :
    h = 0x0#4 ∨ h = 0x1#4 ∨ h = 0x2#4 ∨ h = 0x3#4 ∨ h = 0x4#4 ∨ h = 0x5#4 ∨ h = 0x6#4 ∨ h = 0x7#4 ∨
    h = 0x8#4 ∨ h = 0x9#4 ∨ h = 0xA#4 ∨ h = 0xB#4 ∨ h = 0xC#4 ∨ h = 0xD#4 ∨ h = 0xE#4 ∨ h = 0xF#4 := by
  revert h
  decide

/-- A word is the encoding of at most one well-formed instruction. -/
theorem reencodes_of_decode {w : Word} {i j : Instr} (hwf : j.wf = true) (hw : encode j = w)
    (hdec : decodeWord w = .ok i) : Reencodes w i := by
  cases (decodeWord_of_encode hwf hw).symm.trans hdec
  exact reencodes_of_encode hwf hw

section ByClass
variable {w : Word}

theorem decodeWord_class0 (h : Field.hi w = 0x0#4) : decodeWord w = .ok (decodeClass0 w) := by simp [decodeWord, h]

theorem decodeWord_class5 (h : Field.hi w = 0x5#4) : decodeWord w = .ok (.seReg (Field.x w) (Field.y w)) := by
  simp [decodeWord, h]

theorem decodeWord_class8 (h : Field.hi w = 0x8#4) : decodeWord w = decodeClass8 w := by simp [decodeWord, h]

theorem decodeWord_class9 (h : Field.hi w = 0x9#4) : decodeWord w = .ok (.sneReg (Field.x w) (Field.y w)) := by
  simp [decodeWord, h]

theorem decodeWord_classE (h : Field.hi w = 0xE#4) : decodeWord w = decodeClassE w := by simp [decodeWord, h]

theorem decodeWord_classF (h : Field.hi w = 0xF#4) : decodeWord w = decodeClassF w := by simp [decodeWord, h]

end ByClass

/-- Settles O6: by the class of the word, and in classes 0, 8, E and F by the sub-opcode. -/
theorem decodedWordReencodes : Obligations.DecodedWordReencodes := by
  intro w i hdec
  rcases nibble_cases (Field.hi w) with h | h | h | h | h | h | h | h | h | h | h | h | h | h | h | h
  · cases (decodeWord_class0 h).symm.trans hdec
    exact decodeClass0_reencodes h
  · exact reencodes_of_decode (j := .jp _) rfl (encodeNNN_of h) hdec
  · exact reencodes_of_decode (j := .call _) rfl (encodeNNN_of h) hdec
  · exact reencodes_of_decode (j := .seImm _ _) rfl (encodeXK_of h) hdec
  · exact reencodes_of_decode (j := .sneImm _ _) rfl (encodeXK_of h) hdec
  · cases (decodeWord_class5 h).symm.trans hdec
    exact ⟨rfl, and_operands h⟩
  · exact reencodes_of_decode (j := .ldImm _ _) rfl (encodeXK_of h) hdec
  · exact reencodes_of_decode (j := .addImm _ _) rfl (encodeXK_of h) hdec
  · exact decodeClass8_reencodes h ((decodeWord_class8 h).symm.trans hdec)
  · cases (decodeWord_class9 h).symm.trans hdec
    exact ⟨rfl, and_operands h⟩
  · exact reencodes_of_decode (j := .ldI _) rfl (encodeNNN_of h) hdec
  · exact reencodes_of_decode (j := .jpV0 _) rfl (encodeNNN_of h) hdec
  · exact reencodes_of_decode (j := .rnd _ _) rfl (encodeXK_of h) hdec
  · exact reencodes_of_decode (j := .drw _ _ _) rfl (encodeXYN_of h) hdec
  · exact decodeClassE_reencodes h ((decodeWord_classE h).symm.trans hdec)
  · exact decodeClassF_reencodes h ((decodeWord_classF h).symm.trans hdec)

end Sys2Proof.Claims
end

section
/-!
PROOFS. The opcode map row by row (30_encoding.md R66), the words that select no row (R70), and the words that the spec
writes out.
-/

namespace Sys2Proof.Claims

open Sys2Proof.Machine

section Rows
variable {w : Word} {hi n : Nibble} {lo : Byte}

/-- A row that examines the class only. -/
theorem hi_of_row (h : Row w 0xF000#16 (hi ++ 0#12)) : Field.hi w = hi := by
  rw [Row, ← encodeNNN_fields w, Laws.encodeNNN_class] at h
  exact (append_inj h).1

/-- A row that examines the class and the low byte. -/
theorem hi_kk_of_row (h : Row w 0xF0FF#16 (hi ++ 0#4 ++ lo)) : Field.hi w = hi ∧ Field.kk w = lo := by
  rw [Row, ← encodeXKK_fields w, Laws.encodeXKK_classLow] at h
  obtain ⟨hupper, hlo⟩ := append_inj h
  exact ⟨(append_inj hupper).1, hlo⟩

/-- A row that examines the class and the low nibble. -/
theorem hi_n_of_row (h : Row w 0xF00F#16 (hi ++ 0#4 ++ 0#4 ++ n)) : Field.hi w = hi ∧ Field.n w = n := by
  rw [Row, ← encodeXYN_fields w, Laws.encodeXYN_classLow] at h
  obtain ⟨hupper, hn⟩ := append_inj h
  obtain ⟨hupper, -⟩ := append_inj hupper
  exact ⟨(append_inj hupper).1, hn⟩

/-- Format `NNN`, by the class. -/
theorem decodes_of_row_NNN (hi : Nibble) (make : Addr12 → Instr) (hwf : ∀ a, (make a).wf = true := by intros; rfl)
    (henc : ∀ a, encode (make a) = encodeNNN hi a := by intros; rfl) (h : Row w 0xF000#16 (hi ++ 0#12)) :
    decodeWord w = .ok (make (w.setWidth 12)) := by
  rw [← addr_eq_setWidth]
  exact decodeWord_of_encode (hwf _) ((henc _).trans (encodeNNN_of (hi_of_row h)))

/-- Format `XKK`, by the class. -/
theorem decodes_of_row_XKK (hi : Nibble) (make : Reg → Byte → Instr)
    (hwf : ∀ x kk, (make x kk).wf = true := by intros; rfl)
    (henc : ∀ x kk, encode (make x kk) = encodeXKK hi x kk := by intros; rfl) (h : Row w 0xF000#16 (hi ++ 0#12)) :
    decodeWord w = .ok (make (regAt w 8) (w.setWidth 8)) := by
  rw [← kk_eq_setWidth, ← reg_eq_regAt]
  exact decodeWord_of_encode (hwf _ _) ((henc _ _).trans (encodeXK_of (hi_of_row h)))

/-- Format `XYS`, by the class and the low nibble. -/
theorem decodes_of_row_XYS (hi n : Nibble) (make : Reg → Reg → Instr)
    (hwf : ∀ x y, (make x y).wf = true := by intros; rfl)
    (henc : ∀ x y, encode (make x y) = encodeXYN hi x y n := by intros; rfl)
    (h : Row w 0xF00F#16 (hi ++ 0#4 ++ 0#4 ++ n)) :
    decodeWord w = .ok (make (regAt w 8) (regAt w 4)) := by
  obtain ⟨hhi, hn⟩ := hi_n_of_row h
  rw [← reg_eq_regAt, ← reg_eq_regAt]
  exact decodeWord_of_encode (hwf _ _) ((henc _ _).trans (encodeXYS_of hhi hn))

/-- Format `XS`, by the class and the low byte. -/
theorem decodes_of_row_XS (hi : Nibble) (lo : Byte) (make : Reg → Instr)
    (hwf : ∀ x, (make x).wf = true := by intros; rfl)
    (henc : ∀ x, encode (make x) = encodeXKK hi x lo := by intros; rfl) (h : Row w 0xF0FF#16 (hi ++ 0#4 ++ lo)) :
    decodeWord w = .ok (make (regAt w 8)) := by
  obtain ⟨hhi, hlo⟩ := hi_kk_of_row h
  rw [← reg_eq_regAt]
  exact decodeWord_of_encode (hwf _) ((henc _).trans (encodeXS_of hhi hlo))

theorem decodeWord_cls (h : Row w 0xF0FF#16 0x00E0#16) : decodeWord w = .ok .cls := by
  obtain ⟨hhi, hlo⟩ := hi_kk_of_row (hi := 0x0#4) (lo := 0xE0#8) h
  simp [decodeWord_class0 hhi, decodeClass0, hlo]

theorem decodeWord_ret (h : Row w 0xF0FF#16 0x00EE#16) : decodeWord w = .ok .ret := by
  obtain ⟨hhi, hlo⟩ := hi_kk_of_row (hi := 0x0#4) (lo := 0xEE#8) h
  simp [decodeWord_class0 hhi, decodeClass0, hlo]

theorem decodeWord_sys (h : Row w 0xF000#16 0x0000#16) (hcls : ¬ Row w 0xF0FF#16 0x00E0#16)
    (hret : ¬ Row w 0xF0FF#16 0x00EE#16) : decodeWord w = .ok (.sys (w.setWidth 12)) := by
  have hhi : Field.hi w = 0x0#4 := hi_of_row h
  have hnotE0 : Field.kk w ≠ 0xE0#8 := fun hlo => hcls (and_classLow hhi hlo)
  have hnotEE : Field.kk w ≠ 0xEE#8 := fun hlo => hret (and_classLow hhi hlo)
  simp [decodeWord_class0 hhi, decodeClass0, hnotE0, hnotEE, addr_eq_setWidth]

theorem decodeWord_seReg (h : Row w 0xF000#16 0x5000#16) : decodeWord w = .ok (.seReg (regAt w 8) (regAt w 4)) := by
  rw [← reg_eq_regAt, ← reg_eq_regAt]
  exact decodeWord_class5 (hi_of_row h)

theorem decodeWord_sneReg (h : Row w 0xF000#16 0x9000#16) : decodeWord w = .ok (.sneReg (regAt w 8) (regAt w 4)) := by
  rw [← reg_eq_regAt, ← reg_eq_regAt]
  exact decodeWord_class9 (hi_of_row h)

theorem decodeWord_drw (h : Row w 0xF000#16 0xD000#16) :
    decodeWord w = .ok (.drw (regAt w 8) (regAt w 4) (w.setWidth 4)) := by
  rw [← n_eq_setWidth, ← reg_eq_regAt, ← reg_eq_regAt]
  exact decodeWord_of_encode rfl (encodeXYN_of (hi_of_row h))

end Rows

/-- Settles O7: row by row, by the format of the row. -/
theorem opcodeMapSelectsInstructions : Obligations.OpcodeMapSelectsInstructions :=
  fun w => ⟨decodeWord_cls, decodeWord_ret, decodeWord_sys,
    decodes_of_row_NNN 0x1#4 .jp,
    decodes_of_row_NNN 0x2#4 .call,
    decodes_of_row_XKK 0x3#4 .seImm,
    decodes_of_row_XKK 0x4#4 .sneImm,
    decodeWord_seReg,
    decodes_of_row_XKK 0x6#4 .ldImm,
    decodes_of_row_XKK 0x7#4 .addImm,
    decodes_of_row_XYS 0x8#4 0x0#4 .ldReg,
    decodes_of_row_XYS 0x8#4 0x1#4 .or,
    decodes_of_row_XYS 0x8#4 0x2#4 .and,
    decodes_of_row_XYS 0x8#4 0x3#4 .xor,
    decodes_of_row_XYS 0x8#4 0x4#4 .addReg,
    decodes_of_row_XYS 0x8#4 0x5#4 .sub,
    decodes_of_row_XYS 0x8#4 0x6#4 .shr,
    decodes_of_row_XYS 0x8#4 0x7#4 .subn,
    decodes_of_row_XYS 0x8#4 0xE#4 .shl,
    decodeWord_sneReg,
    decodes_of_row_NNN 0xA#4 .ldI,
    decodes_of_row_NNN 0xB#4 .jpV0,
    decodes_of_row_XKK 0xC#4 .rnd,
    decodeWord_drw,
    decodes_of_row_XS 0xE#4 0x9E#8 .skp,
    decodes_of_row_XS 0xE#4 0xA1#8 .sknp,
    decodes_of_row_XS 0xF#4 0x07#8 .ldVxDT,
    decodes_of_row_XS 0xF#4 0x0A#8 .ldVxK,
    decodes_of_row_XS 0xF#4 0x15#8 .ldDTVx,
    decodes_of_row_XS 0xF#4 0x18#8 .ldSTVx,
    decodes_of_row_XS 0xF#4 0x1E#8 .addI,
    decodes_of_row_XS 0xF#4 0x29#8 .ldF,
    decodes_of_row_XS 0xF#4 0x33#8 .ldB,
    decodes_of_row_XS 0xF#4 0x55#8 .storeRegs,
    decodes_of_row_XS 0xF#4 0x65#8 .loadRegs⟩

/-! ### Illegal words -/

section Illegal
variable {w : Word}

/-- Only classes 8, E and F have illegal words. -/
theorem decodeWord_error_iff :
    (∃ e, decodeWord w = .error e) ↔
      (Field.hi w = 0x8#4 ∧ ∃ e, decodeClass8 w = .error e) ∨
      (Field.hi w = 0xE#4 ∧ ∃ e, decodeClassE w = .error e) ∨
      (Field.hi w = 0xF#4 ∧ ∃ e, decodeClassF w = .error e) := by
  rcases nibble_cases (Field.hi w) with h | h | h | h | h | h | h | h | h | h | h | h | h | h | h | h <;>
    simp [decodeWord, h]

theorem decodeClass8_error_iff :
    (∃ e, decodeClass8 w = .error e) ↔ (Field.n w).toNat ∈ [0x8, 0x9, 0xA, 0xB, 0xC, 0xD, 0xF] := by
  rcases nibble_cases (Field.n w) with h | h | h | h | h | h | h | h | h | h | h | h | h | h | h | h <;>
    simp [decodeClass8, h]

theorem decodeClassE_error_iff :
    (∃ e, decodeClassE w = .error e) ↔ (Field.kk w).toNat ∉ [0x9E, 0xA1] := by
  unfold decodeClassE
  split_ifs <;> simp_all [BitVec.toNat_eq]

theorem decodeClassF_error_iff :
    (∃ e, decodeClassF w = .error e) ↔
      (Field.kk w).toNat ∉ [0x07, 0x0A, 0x15, 0x18, 0x1E, 0x29, 0x33, 0x55, 0x65] := by
  unfold decodeClassF
  split_ifs <;> simp_all [BitVec.toNat_eq]

end Illegal

theorem hi_eq_iff (w : Word) (hi : Nibble) : Field.hi w = hi ↔ w.toNat / 4096 = hi.toNat := by
  rw [BitVec.toNat_eq, hi_toNat]

/-- Settles O8: the three classes with illegal words, and in each the sub-opcodes that no row has. -/
theorem illegalWordsAreExactlyThreeSets : Obligations.IllegalWordsAreExactlyThreeSets := by
  intro w
  rw [decodeWord_error_iff, decodeClass8_error_iff, decodeClassE_error_iff, decodeClassF_error_iff, n_toNat, kk_toNat,
    hi_eq_iff, hi_eq_iff, hi_eq_iff]
  exact Iff.rfl

/-- Settles O9: closed words, decoded by evaluation. -/
theorem wordsOfTheSpecDecode : Obligations.WordsOfTheSpecDecode := by
  unfold Obligations.WordsOfTheSpecDecode
  decide

end Sys2Proof.Claims
end

section
/-!
PROOFS. The step (40_step_cycle.md R80) and its faults (60_exceptions.md R160 to R164): every step answers a next state,
a fetch past memory and an illegal word raise, a raise changes the latch only, a placed instruction is the one that runs.
-/

namespace Sys2Proof.Claims

open Sys2Proof.Machine

/-- Settles O16: a step stays, raises, or runs an instruction, and all three answer a next state. -/
theorem everyStepAnswersNextState : Obligations.EveryStepAnswersNextState := by
  intro s
  rcases step_cases s with ⟨-, heq⟩ | ⟨-, f, heq⟩ | ⟨-, w, i, -, -, heq⟩
  · exact ⟨s, heq⟩
  · exact ⟨_, heq⟩
  · rcases exec_cases i s.timerTick with ⟨f, hraise⟩ | ⟨t, ht, -⟩
    · exact ⟨_, by rw [heq, hraise]; rfl⟩
    · exact ⟨_, by rw [heq, ht]; rfl⟩

/-- A step whose stages 2 to 4 raise leaves the tick, the latch and its inputs used up. -/
theorem step_raises {s : State} {f : Fault} (hfault : s.fault = none)
    (hraise : fetchExecute s.timerTick = raise f s.timerTick) :
    step s = .next { s.timerTick with fault := some f }.nextInput := by
  simp only [step, hfault, hraise]
  rfl

/-- Settles O14: the tick leaves `pc`, so the fetch fails at the same address. -/
theorem fetchPastMemoryFaults : Obligations.FetchPastMemoryFaults := by
  intro s hfault hpc
  have hfetch : s.timerTick.fetchWord s.timerTick.pc = .error (.fetchOutOfBounds s.pc) := State.fetchWord_fault _ hpc
  exact step_raises hfault (by simp only [fetchExecute, hfetch])

/-- Settles O15: a word of the three sets does not decode, by `illegalWordsAreExactlyThreeSets`. -/
theorem illegalWordFaults : Obligations.IllegalWordFaults := by
  intro s w hfault hpc hw hillegal
  obtain ⟨e, hdec⟩ := (illegalWordsAreExactlyThreeSets w).mpr hillegal
  have hfetch : s.timerTick.fetchWord s.timerTick.pc = .ok w := by
    rw [hw]
    exact State.fetchWord_ok _ (by rw [State.timerTick_pc]; omega)
  exact step_raises hfault (by simp only [fetchExecute, hfetch, hdec])

theorem exec_fault {i : Instr} {s t : State} (h : exec i s = .next t) : RaisedFrom s t ∨ t.fault = s.fault := by
  refine (exec_frame h).imp_right ?_
  rintro ⟨-, -, -, -, -, -, -, -, -, -, hfault, -⟩
  exact hfault

/-- Settles O17: an instruction that does not raise leaves the latch clear, so what latched the fault was a raise. -/
theorem faultsArePrecise : Obligations.FaultsArePrecise := by
  intro s t f hs h ht
  have precise {u : State} (hu : RaisedFrom s.timerTick u) (hf : u.fault = some f) :
      u = { s.timerTick with fault := some f } := by
    obtain ⟨g, rfl⟩ := hu
    cases hf
    rfl
  rcases step_next h with ⟨hfault, -⟩ | ⟨-, u, hu, rfl⟩ | ⟨i, u, -, hexec, rfl⟩
  · exact absurd hs hfault
  · rw [precise hu ht]
  · rcases exec_fault hexec with hu | hfault
    · rw [precise hu ht]
    · cases (hfault.trans hs).symm.trans ht

/-! ### Placing an instruction -/

theorem decodeWord_of_tableWord {w : Nat} {i : Instr} (h : decodeTableWord 16 w = some i) :
    decodeWord (BitVec.ofNat 16 (w % 2 ^ 16)) = .ok i := by
  cases hdec : decodeWord (BitVec.ofNat 16 (w % 2 ^ 16)) with
  | ok j =>
    simp only [decodeTableWord, decode, wordOfBytes_split, hdec, Option.some.injEq] at h
    rw [h]
  | error e => simp only [decodeTableWord, decode, wordOfBytes_split, hdec, reduceCtorEq] at h

/-- The word stored high byte first at `a` is the one fetched there (20_memory.md R42, R48). -/
theorem fetchWord_writeBytes {s : State} (hwf : s.memWf = true) {a : Word} (ha : a.toNat < 0xFFF) (b0 b1 : Byte)
    (rest : List Byte) (hrest : a.toNat + 2 + rest.length ≤ 4096) :
    (s.writeBytes a.toNat (b0 :: b1 :: rest)).fetchWord a = .ok (wordOfBytes b0 b1) := by
  have hlen : a.toNat + (b0 :: b1 :: rest).length ≤ 4096 := by
    simp only [List.length_cons]
    omega
  have hread {k : Nat} (hk : k < (b0 :: b1 :: rest).length) := s.readByte_writeBytes_inside hwf a.toNat _ hlen hk
  have hhigh := hread (k := 0) (by simp)
  have hlow := hread (k := 1) (by simp)
  rw [State.fetchWord_ok _ ha]
  exact congrArg Except.ok (congrArg₂ wordOfBytes hhigh hlow)

/-- Settles O11: the placed word is the one fetched, and the latch is clear. -/
theorem placedInstructionRuns : Obligations.PlacedInstructionRuns := by
  intro s w i hwf hpc hdec
  refine stepRunsDecodedInstruction _ i (executes_iff.mpr ?_)
  have hfetch := fetchWord_writeBytes hwf (a := s.pc) (by omega) (Word.highByte (BitVec.ofNat 16 (w % 2 ^ 16)))
    (Word.lowByte (BitVec.ofNat 16 (w % 2 ^ 16))) [] (by simp only [List.length_nil]; omega)
  rw [wordOfBytes_split] at hfetch
  unfold State.withFetchWord
  rw [if_pos hpc]
  refine ⟨rfl, _, ?_, decodeWord_of_tableWord hdec⟩
  rw [← hfetch]
  simp only [State.writeBytes_pc]
  rfl

end Sys2Proof.Claims
end

section
/-!
PROOFS. Which instructions change which state (10_state.md R11 to R26), from the frame of every instruction: a part that
changed is a part of `partsOf`, a register that changed is one of `destsOf`.
-/

namespace Sys2Proof.Claims

open Sys2Proof.Machine

theorem mem_destsOf_iff {i : Instr} {r : Reg} : r ∈ destsOf i ↔ MayWrite i r := by
  cases i <;> simp [destsOf, MayWrite]

/-- Settles O19: a raise writes no register, and `destsOf` lists what `MayWrite` allows. -/
theorem registersWrittenOnlyAsDestinations : Obligations.RegistersWrittenOnlyAsDestinations := by
  intro i s t h r hr
  rcases exec_frame h with ⟨f, rfl⟩ | ⟨hreg, -⟩
  · rfl
  · exact hreg r (fun hin => hr (mem_destsOf_iff.mp hin))

theorem flag_zero_or_one (s : State) (x : Reg) (b : Byte) (c : Bool) :
    (s.setResultAndFlag x b c).reg Reg.vf = 0#8 ∨ (s.setResultAndFlag x b c).reg Reg.vf = 1#8 := by
  rw [State.reg_setResultAndFlag, if_pos rfl]
  exact flagByte_cases c

/-- Settles O20: the six instructions end in the write of a `flagByte` to `VF`. -/
theorem flagsAreZeroOrOne : Obligations.FlagsAreZeroOrOne := by
  intro i s t hi hs h ht
  cases i with
  | addReg | sub | subn | shr | shl =>
    cases h
    exact flag_zero_or_one s _ _ _
  | drw x y n =>
    rcases checked_next h with ⟨f, rfl⟩ | ⟨-, rfl⟩
    · cases ht
    · rw [State.advance_reg, State.reg_setFlag, if_pos rfl]
      exact flagByte_cases _
  | _ => exact hi.elim

/-- Settles O21: five instructions have `I` in their frame's exceptions, two of them through `bumpIndex`. -/
theorem onlyIndexInstructionsWriteIndex : Obligations.OnlyIndexInstructionsWriteIndex := by
  intro i s t h hne
  have bumped {u : State} {x : Reg} (hu : u.index = s.index) (hcfg : u.cfg = s.cfg)
      (ht : t.index = (u.bumpIndex x).index) : s.cfg.loadStoreIncrementsI = true := by
    by_contra hoff
    have hoff' : u.cfg.loadStoreIncrementsI = false := by rw [hcfg]; simpa using hoff
    exact hne (by rw [ht, State.bumpIndex_index_off u x hoff', hu])
  cases i with
  | ldI addr => exact .inl ⟨addr, rfl⟩
  | addI x => exact .inr (.inl ⟨x, rfl⟩)
  | ldF x => exact .inr (.inr (.inl ⟨x, rfl⟩))
  | storeRegs x =>
    rcases checked_next h with ⟨f, rfl⟩ | ⟨-, rfl⟩
    · exact absurd rfl hne
    · exact .inr (.inr (.inr ⟨⟨x, .inl rfl⟩, bumped (State.writeBytes_index s _ _) (State.writeBytes_cfg s _ _) rfl⟩))
  | loadRegs x =>
    rcases checked_next h with ⟨f, rfl⟩ | ⟨-, rfl⟩
    · exact absurd rfl hne
    · exact .inr (.inr (.inr ⟨⟨x, .inr rfl⟩, bumped (State.loadRegRun_index s _ x) rfl rfl⟩))
  | _ =>
    rcases exec_frame h with ⟨f, rfl⟩ | ⟨-, hindex, -⟩
    · exact absurd rfl hne
    · exact absurd (hindex (by simp [partsOf])) hne

/-- Settles O22: two instructions have the stack in their frame's exceptions, and `RET` only moves `sp`. -/
theorem onlyCallAndRetTouchTheStack : Obligations.OnlyCallAndRetTouchTheStack := by
  intro i s t h
  cases i with
  | call addr => exact ⟨fun _ => .inr ⟨addr, rfl⟩, fun _ => ⟨addr, rfl⟩⟩
  | ret =>
    refine ⟨fun _ => .inl rfl, fun hne => absurd ?_ hne⟩
    rcases execRet_next h with ⟨f, rfl⟩ | ⟨-, rfl⟩ <;> rfl
  | _ =>
    have hstack : t.sp = s.sp ∧ t.stack = s.stack := by
      rcases exec_frame h with ⟨f, rfl⟩ | ⟨-, -, -, -, hstack, -⟩
      · exact ⟨rfl, rfl⟩
      · exact hstack (by simp [partsOf])
    exact ⟨fun hne => absurd hstack.1 hne, fun hne => absurd hstack.2 hne⟩

/-- Settles O23: two instructions have the screen in their frame's exceptions. -/
theorem onlyClsAndDrwWriteTheScreen : Obligations.OnlyClsAndDrwWriteTheScreen := by
  intro i s t h hne
  cases i with
  | cls => exact .inl rfl
  | drw x y n => exact .inr ⟨x, y, n, rfl⟩
  | _ =>
    rcases exec_frame h with ⟨f, rfl⟩ | ⟨-, -, -, hscreen, -⟩
    · exact absurd rfl hne
    · exact absurd (Framebuffer.ext (hscreen (by simp [partsOf]))) hne

/-- Settles O24: a byte that changed lies in the run that `exec_memory` says was stored. -/
theorem onlyStoresWriteMemory : Obligations.OnlyStoresWriteMemory := by
  intro i s t a h hne
  have hread {u : State} (hcfg : u.cfg = s.cfg) (hmem : t.mem = u.mem) : t.readByte a = u.readByte a := by
    rw [State.readByte, State.readByte, exec_keeps_cfg h, hcfg, hmem]
  rcases exec_memory h with hmem | ⟨bs, hlow, hhigh, hmem, hinstr⟩
  · exact absurd (hread rfl hmem) hne
  · have hinside : ¬ (a < s.dataAddr ∨ s.dataAddr + bs.length ≤ a) := fun hout =>
      hne ((hread (s.writeBytes_cfg _ _) hmem).trans (s.readByte_writeBytes_outside _ bs hout))
    refine ⟨by omega, by omega, by omega, ?_⟩
    rcases hinstr with ⟨x, rfl, hlen⟩ | ⟨x, rfl, hlen⟩
    · exact .inl ⟨x, rfl, by omega⟩
    · exact .inr ⟨x, rfl, by omega⟩

/-- Settles O25: three instructions have the latch in their frame's exceptions, and each leaves it clear. -/
theorem onlyKeyInstructionsTouchTheLatch : Obligations.OnlyKeyInstructionsTouchTheLatch := by
  intro i s t h
  refine ⟨?_, fun hi => ?_⟩
  · rintro ⟨x, rfl | rfl | rfl⟩
    · cases h
      rfl
    · cases h
      rfl
    · rcases execLdVxK_next h with ⟨hkey, rfl⟩ | ⟨k, -, rfl⟩
      · exact hkey
      · rfl
  · have hparts : Part.latch ∉ partsOf i := by cases i <;> simp_all [partsOf]
    rcases exec_frame h with ⟨f, rfl⟩ | ⟨-, -, -, -, -, -, -, hkey, -⟩
    · rfl
    · exact hkey hparts

end Sys2Proof.Claims
end

section
/-!
PROOFS. `pc` after an instruction and after a step that raises (10_state.md R15).
-/

namespace Sys2Proof.Claims

open Sys2Proof.Machine

theorem step_raises_keeps_pc {s t : State} (hs : s.fault = none) (h : step s = .next t) (ht : t.fault ≠ none) :
    t.pc = s.pc := by
  obtain ⟨f, hf⟩ := Option.ne_none_iff_exists'.mp ht
  rw [faultsArePrecise s t f hs h hf]
  rfl

theorem skipIf_pc_eq {c : Bool} {p : Prop} [Decidable p] (hc : c = true ↔ p) (s : State) :
    (s.skipIf c).pc = if p then s.pc + 4#16 else s.pc + 2#16 := by
  simp [hc]

theorem keyMatches_iff (s : State) (x : Reg) : s.keyMatches x = true ↔ s.key = some (s.reg x) := by
  simp [State.keyMatches]

theorem not_keyMatches_iff (s : State) (x : Reg) : (!s.keyMatches x) = true ↔ s.key ≠ some (s.reg x) := by
  simp [State.keyMatches]

/-- Settles O18: the commit of each instruction, by its form; a raise commits nothing. -/
theorem programCounterAfterInstruction : Obligations.ProgramCounterAfterInstruction := by
  refine ⟨fun s t hs h ht => step_raises_keeps_pc hs h ht, fun i s t hs h ht => ?_⟩
  cases i with
  | ret =>
    rcases execRet_next h with ⟨f, rfl⟩ | ⟨-, rfl⟩
    · cases ht
    · have hsp : s.sp.val - 1 < 16 := by omega
      simp [State.pop, hsp]
  | call addr =>
    rcases execCall_next h with ⟨f, rfl⟩ | ⟨-, rfl⟩
    · cases ht
    · rfl
  | ldVxK x =>
    rcases execLdVxK_next h with ⟨hkey, rfl⟩ | ⟨k, hkey, rfl⟩ <;> simp [hkey]
  | drw x y n =>
    rcases checked_next h with ⟨f, rfl⟩ | ⟨-, rfl⟩
    · cases ht
    · rfl
  | ldB | storeRegs | loadRegs =>
    rcases checked_next h with ⟨f, rfl⟩ | ⟨-, rfl⟩
    · cases ht
    · simp
  | seImm | seReg =>
    cases h
    exact skipIf_pc_eq beq_iff_eq s
  | sneImm | sneReg =>
    cases h
    exact skipIf_pc_eq bne_iff_ne s
  | skp x =>
    cases h
    exact skipIf_pc_eq (keyMatches_iff s x) s.consumeKey
  | sknp x =>
    cases h
    exact skipIf_pc_eq (not_keyMatches_iff s x) s.consumeKey
  | jp | jpV0 | cls | sys | ldImm | addImm | ldReg | or | and | xor | addReg | sub | shr | subn | shl | ldI | rnd
  | ldVxDT | ldDTVx | ldSTVx | addI | ldF =>
    cases h
    rfl

end Sys2Proof.Claims
end

section
/-!
PROOFS. The call stack (41_control_flow.md R92 to R94).
-/

namespace Sys2Proof.Claims

open Sys2Proof.Machine

theorem exec_call_pushes (addr : Addr12) {s : State} (hsp : s.sp.val < 16) :
    exec (.call addr) s = .next ((s.push s.nextPc hsp).jump (addrWord addr)) := dif_pos hsp

theorem exec_ret_pops {s : State} (hsp : s.sp.val ≠ 0) : exec .ret s = .next (s.pop.2.jump s.pop.1) := if_neg hsp

theorem push_stack_entry (s : State) (w : Word) (hsp : s.sp.val < 16) (k : Fin 16) :
    (s.push w hsp).stack[k.val] = if k.val = s.sp.val then w else s.stack[k.val] := by
  simp only [State.push_stack, Vector.getElem_set, eq_comm]

/-- Settles O29: one `push` and one `jump`, or the raise of a full stack. -/
theorem callPushesAndJumps : Obligations.CallPushesAndJumps := by
  refine fun addr s => ⟨fun hsp => ?_, fun hfull => dif_neg (by omega)⟩
  exact ⟨_, exec_call_pushes addr hsp, addrWord_toNat addr, rfl, push_stack_entry s s.nextPc hsp,
    ((Keeps.refl _ _ s).push (List.mem_singleton_self _) _ hsp).jump _⟩

theorem pop_entry (s : State) : s.stack[s.sp.val - 1]? = some s.pop.1 := by
  have hlt : s.sp.val - 1 < 16 := by omega
  simp [State.pop, hlt]

/-- Settles O30: one `pop` and one `jump`, or the raise of an empty stack. -/
theorem retPopsIntoPc : Obligations.RetPopsIntoPc := by
  refine fun s => ⟨fun hsp => ?_, fun hempty => if_pos hempty⟩
  exact ⟨_, exec_ret_pops hsp, pop_entry s, Nat.sub_add_cancel (Nat.pos_of_ne_zero hsp), rfl,
    ((Keeps.refl _ _ s).pop (List.mem_singleton_self _)).jump _⟩

/-- Settles O31: what `RET` pops is what `CALL` pushed, and popping leaves the entries alone. -/
theorem callThenRetReturns : Obligations.CallThenRetReturns := by
  intro addr s hsp
  have hstack : Part.stack ∈ [Part.stack] := List.mem_singleton_self _
  refine ⟨_, _, exec_call_pushes addr hsp, exec_ret_pops (Nat.succ_ne_zero _), s.pop_push s.nextPc hsp, rfl,
    fun k hk => ?_, ((((Keeps.refl _ _ s).push hstack _ hsp).jump _).pop hstack).jump _⟩
  exact (push_stack_entry s s.nextPc hsp k).trans (if_neg hk)

end Sys2Proof.Claims
end

section
/-!
PROOFS. Arithmetic and shifts with a flag (42_alu.md R116 to R120): every one of these instructions is one
`setResultAndFlag`, the flag written last (10_state.md R13).
-/

namespace Sys2Proof.Claims

open Sys2Proof.Machine

/-- The shape that the five instructions share. -/
theorem setResultAndFlag_advance_spec (x : Reg) (b : Byte) (c : Bool) (s : State) :
    (x ≠ Reg.vf → (s.setResultAndFlag x b c).advance.reg x = b) ∧
    (s.setResultAndFlag x b c).advance.reg Reg.vf = flagByte c ∧
    (s.setResultAndFlag x b c).advance.pc = s.pc + 2#16 ∧
    Keeps [] [x, Reg.vf] s (s.setResultAndFlag x b c).advance := by
  refine ⟨fun hx => ?_, ?_, rfl, ((Keeps.refl _ _ s).setResultAndFlag (by simp) (by simp) b c).advance⟩
  · rw [State.advance_reg, State.reg_setResultAndFlag, if_neg hx, if_pos rfl]
  · rw [State.advance_reg, State.reg_setResultAndFlag, if_pos rfl]

theorem flagByte_decide (p : Prop) [Decidable p] : flagByte (decide p) = if p then 1#8 else 0#8 := by
  simp [flagByte]

theorem flagByte_toNat (c : Bool) : (flagByte c).toNat = c.toNat := by cases c <;> rfl

/-- Settles O35: the carry is the sum of the naturals leaving the byte. -/
theorem addSetsCarry : Obligations.AddSetsCarry := by
  intro x y s
  obtain ⟨hx, hvf, hpc, hkeeps⟩ :=
    setResultAndFlag_advance_spec x (s.reg x + s.reg y) (carryOut (s.reg x) (s.reg y)) s
  exact ⟨_, rfl, fun hne => (congrArg BitVec.toNat (hx hne)).trans (BitVec.toNat_add _ _),
    hvf.trans (flagByte_decide _), hpc, hkeeps⟩

/-- The difference of two bytes as a natural, in the form the spec writes it. -/
theorem toNat_byte_sub (a b : Byte) : (a - b).toNat = (a.toNat + 256 - b.toNat) % 256 := by
  have := b.isLt
  rw [BitVec.toNat_sub]
  omega

/-- `a - b` to `V[x]` with its no-borrow flag: what SUB and SUBN share, the operands exchanged. -/
theorem difference_spec (x : Reg) (a b : Byte) (s : State) :
    (x ≠ Reg.vf → ((s.setResultAndFlag x (a - b) (noBorrow a b)).advance.reg x).toNat =
      (a.toNat + 256 - b.toNat) % 256) ∧
    (s.setResultAndFlag x (a - b) (noBorrow a b)).advance.reg Reg.vf = (if a.toNat ≥ b.toNat then 1#8 else 0#8) ∧
    (s.setResultAndFlag x (a - b) (noBorrow a b)).advance.pc = s.pc + 2#16 ∧
    Keeps [] [x, Reg.vf] s (s.setResultAndFlag x (a - b) (noBorrow a b)).advance := by
  obtain ⟨hx, hvf, hpc, hkeeps⟩ := setResultAndFlag_advance_spec x (a - b) (noBorrow a b) s
  exact ⟨fun hne => (congrArg BitVec.toNat (hx hne)).trans (toNat_byte_sub a b), hvf.trans (flagByte_decide _), hpc,
    hkeeps⟩

/-- Settles O36: both instructions are one difference. -/
theorem subtractSetsNoBorrow : Obligations.SubtractSetsNoBorrow :=
  fun x y s => ⟨⟨_, rfl, difference_spec x (s.reg x) (s.reg y) s⟩, ⟨_, rfl, difference_spec x (s.reg y) (s.reg x) s⟩⟩

theorem shiftedOutRight_toNat (a : Byte) : (flagByte (shiftedOutRight a)).toNat = a.toNat % 2 := by
  rw [flagByte_toNat, shiftedOutRight, BitVec.getLsbD, Nat.toNat_testBit, Nat.pow_zero, Nat.div_one]

theorem shiftedOutLeft_toNat (a : Byte) : (flagByte (shiftedOutLeft a)).toNat = a.toNat / 128 := by
  have := a.isLt
  rw [flagByte_toNat, shiftedOutLeft, BitVec.getLsbD, Nat.toNat_testBit]
  omega

theorem toNat_shr_one (a : Byte) : (a >>> 1).toNat = a.toNat / 2 := by
  rw [BitVec.toNat_ushiftRight, Nat.shiftRight_eq_div_pow, Nat.pow_one]

theorem toNat_shl_one (a : Byte) : (a <<< 1).toNat = a.toNat * 2 % 256 := by
  rw [BitVec.toNat_shiftLeft, Nat.shiftLeft_eq, Nat.pow_one]

/-- Settles O37: `src` is the model's `shiftOperand`. -/
theorem shiftsMoveOneBitOut : Obligations.ShiftsMoveOneBitOut := by
  intro x y s src hsrc
  have hoperand : s.shiftOperand x y = src := hsrc.symm
  refine ⟨?_, ?_⟩
  · obtain ⟨hx, hvf, hpc, hkeeps⟩ := setResultAndFlag_advance_spec x (src >>> 1) (shiftedOutRight src) s
    refine ⟨_, by rw [exec, execShr, hoperand], fun hne => ?_, ?_, hpc, hkeeps⟩
    · rw [hx hne, toNat_shr_one]
    · rw [hvf, shiftedOutRight_toNat]
  · obtain ⟨hx, hvf, hpc, hkeeps⟩ := setResultAndFlag_advance_spec x (src <<< 1) (shiftedOutLeft src) s
    refine ⟨_, by rw [exec, execShl, hoperand], fun hne => ?_, ?_, hpc, hkeeps⟩
    · rw [hx hne, toNat_shl_one]
    · rw [hvf, shiftedOutLeft_toNat]

end Sys2Proof.Claims
end

section
/-!
PROOFS. The index register (43_index_memory.md R130, R131, R133): every one of these instructions is one `setIndex`.
-/

namespace Sys2Proof.Claims

open Sys2Proof.Machine

/-- The shape that the three instructions share. -/
theorem setIndex_advance_spec (a : Word) (s : State) :
    (s.setIndex a).advance.pc = s.pc + 2#16 ∧ Keeps [.index] [] s (s.setIndex a).advance :=
  ⟨rfl, ((Keeps.refl _ _ s).setIndex (List.mem_singleton_self _) a).advance⟩

theorem toNat_word_add_byte (a : Word) (b : Byte) : (a + b.setWidth 16).toNat = (a.toNat + b.toNat) % 65536 := by
  have := b.isLt
  rw [BitVec.toNat_add, BitVec.toNat_setWidth]
  omega

/-- Settles O38: the address is zero extended, the sum is taken in 16 bits. -/
theorem indexLoadAndAdd : Obligations.IndexLoadAndAdd :=
  ⟨fun addr s => ⟨_, rfl, addrWord_toNat addr, setIndex_advance_spec _ s⟩,
    fun x s => ⟨_, rfl, toNat_word_add_byte s.index (s.reg x), setIndex_advance_spec _ s⟩⟩

theorem glyphOffset_raw (d : Byte) : (glyphOffset .raw d).toNat = d.toNat * 5 := by
  have := d.isLt
  simp only [glyphOffset, ite_self, BitVec.toNat_ofNat]
  omega

theorem glyphOffset_mask {d : Byte} (h : d.toNat > 15) : (glyphOffset .mask d).toNat = d.toNat % 16 * 5 := by
  have hand : (d &&& 0x0F#8).toNat = d.toNat % 16 := Nat.and_two_pow_sub_one_eq_mod d.toNat 4
  simp only [glyphOffset, Nat.not_le.mpr h, if_false, BitVec.toNat_ofNat, hand]
  omega

/-- Settles O39: `glyphOffset`, by the digit and the parameter. -/
theorem glyphOffsetIsDigitTimesFive : Obligations.GlyphOffsetIsDigitTimesFive := by
  refine fun x s => ⟨_, rfl, glyphOffset_digit _, fun _ hraw => ?_, fun hlarge hmask => ?_, setIndex_advance_spec _ s⟩
  · rw [State.advance_index, State.setIndex_index, hraw, glyphOffset_raw]
  · rw [State.advance_index, State.setIndex_index, hmask, glyphOffset_mask hlarge]

end Sys2Proof.Claims
end

section
/-!
PROOFS. Timer access, keys, the random byte (45_timer_key_random.md), in one instruction.
-/

namespace Sys2Proof.Claims

open Sys2Proof.Machine

/-- Settles O47: one register or one counter is written. -/
theorem timerLoadsAndReads : Obligations.TimerLoadsAndReads := by
  refine fun x s => ⟨⟨_, rfl, setReg_advance_spec x s.dt s⟩, ⟨_, rfl, rfl, rfl, ?_⟩, ⟨_, rfl, rfl, rfl, ?_⟩⟩
  · exact ((Keeps.refl _ _ s).withDelay (List.mem_singleton_self _) _).advance
  · exact ((Keeps.refl _ _ s).withSound (List.mem_singleton_self _) _).advance

theorem keySkip_frame (s : State) (c : Bool) : Keeps [.latch] [] s (s.consumeKey.skipIf c) :=
  ((Keeps.refl _ _ s).consumeKey (List.mem_singleton_self _)).skipIf c

theorem skipIf_pc_offset {c : Bool} {p : Prop} [Decidable p] (hc : c = true ↔ p) (s : State) :
    (s.skipIf c).pc = s.pc + (if p then 4#16 else 2#16) := by
  rw [skipIf_pc_eq hc, apply_ite (s.pc + ·)]

/-- Settles O51: both instructions consume the key and are one `skipIf` on `keyMatches`. -/
theorem keySkipsConsumeTheKey : Obligations.KeySkipsConsumeTheKey := by
  refine fun x s => ⟨⟨_, rfl, rfl, ?_, keySkip_frame s _⟩, ⟨_, rfl, rfl, ?_, keySkip_frame s _⟩⟩
  · exact skipIf_pc_offset (keyMatches_iff s x) s.consumeKey
  · exact (skipIf_pc_offset (not_keyMatches_iff s x) s.consumeKey).trans (congrArg _ (ite_not _ _ _))

/-- Settles O54: one register is written. -/
theorem randomByteIsMasked : Obligations.RandomByteIsMasked :=
  fun x kk s => ⟨_, rfl, setReg_advance_spec x (s.input.rand &&& kk) s⟩

/-- A step that executes `LD Vx, K` with no key pending reports that it waits (R86). -/
theorem stepStatus_waits {s : State} {x : Reg} (hexec : Executes s (.ldVxK x)) (hkey : s.key = none) :
    s.stepStatus = .waitingForInput := by
  obtain ⟨hfault, w, hw, hdec⟩ := executes_iff.mp hexec
  simp only [State.stepStatus, hfault, hw, hkey, hdec]

/-- No other step reports it (R86). -/
theorem waits_of_stepStatus {s : State} (h : s.stepStatus = .waitingForInput) :
    s.key = none ∧ ∃ x, Executes s (.ldVxK x) := by
  unfold State.stepStatus at h
  split at h
  · next w hfault hw hkey =>
    split at h
    · next x hdec => exact ⟨hkey, x, executes_iff.mpr ⟨hfault, w, hw, hdec⟩⟩
    · cases h
  · cases h

/-- Settles O52: the two outcomes of `execLdVxK`. -/
theorem keyWaitTakesOrRepeats : Obligations.KeyWaitTakesOrRepeats := by
  refine fun x s => ⟨fun k hkey => ?_, fun hkey => ⟨execLdVxK_waits hkey, fun hexec => stepStatus_waits hexec hkey⟩⟩
  exact ⟨_, execLdVxK_takes hkey, s.reg_setReg_same x k, rfl, rfl,
    (((Keeps.refl _ _ s).setReg (List.mem_singleton_self x) k).consumeKey (List.mem_singleton_self _)).advance⟩

/-- Settles O53: the tick leaves the key latch, so the instruction finds none and answers the state it is given. -/
theorem waitingStepOnlyTicks : Obligations.WaitingStepOnlyTicks := by
  refine fun s => ⟨fun x hexec hkey => ⟨?_, stepStatus_waits hexec hkey⟩, waits_of_stepStatus⟩
  have hwait : exec (.ldVxK x) s.timerTick = .next s.timerTick := execLdVxK_waits hkey
  rw [stepRunsDecodedInstruction s _ hexec, hwait]
  rfl

end Sys2Proof.Claims
end

section
/-!
PROOFS. The timers over a step and over two ticks (40_step_cycle.md R81, 60_exceptions.md R172, R173).
-/

namespace Sys2Proof.Claims

open Sys2Proof.Machine

theorem exec_keeps_dt {i : Instr} {s t : State} (h : exec i s = .next t) (hi : ∀ x, i ≠ .ldDTVx x) : t.dt = s.dt := by
  have hparts : Part.delay ∉ partsOf i := by cases i <;> simp_all [partsOf]
  rcases exec_frame h with ⟨f, rfl⟩ | ⟨-, -, -, -, -, hdelay, -⟩
  · rfl
  · exact hdelay hparts

theorem exec_keeps_st {i : Instr} {s t : State} (h : exec i s = .next t) (hi : ∀ x, i ≠ .ldSTVx x) : t.st = s.st := by
  have hparts : Part.sound ∉ partsOf i := by cases i <;> simp_all [partsOf]
  rcases exec_frame h with ⟨f, rfl⟩ | ⟨-, -, -, -, -, -, hsound, -⟩
  · rfl
  · exact hsound hparts

/-- Settles O26: the tick moves a counter by at most one, and only the instruction that loads it writes it besides. -/
theorem timersFallByAtMostOneAStep : Obligations.TimersFallByAtMostOneAStep := by
  intro s t h
  have hdt := countDown_bounds (tickDue s.lastTick s.input.gate) s.dt
  have hst := countDown_bounds (tickDue s.lastTick s.input.gate) s.st
  rcases step_next h with ⟨-, rfl⟩ | ⟨-, u, ⟨f, rfl⟩, rfl⟩ | ⟨i, u, hi, hexec, rfl⟩
  · exact ⟨fun _ => ⟨le_rfl, Nat.le_succ _⟩, fun _ => ⟨le_rfl, Nat.le_succ _⟩⟩
  · exact ⟨fun _ => hdt, fun _ => hst⟩
  · refine ⟨fun hnot => ?_, fun hnot => ?_⟩
    · rw [State.nextInput_dt, exec_keeps_dt hexec (fun x heq => hnot x (heq ▸ hi))]
      exact hdt
    · rw [State.nextInput_st, exec_keeps_st hexec (fun x heq => hnot x (heq ▸ hi))]
      exact hst

theorem countDown_toNat (due : Bool) (b : Byte) :
    (countDown due b).toNat = b.toNat - (if due = true then 1 else 0) := by
  cases due
  · rfl
  · exact countDown_open b

/-- Settles O48: the instruction runs on the state after the tick. -/
theorem tickPrecedesTimerAccess : Obligations.TickPrecedesTimerAccess := by
  refine fun s x => ⟨fun h => ?_, fun h => ?_, fun h => ?_⟩
  · exact ⟨_, stepRunsDecodedInstruction s _ h, s.timerTick.reg_setReg_same x s.timerTick.dt, countDown_toNat _ _⟩
  · exact ⟨_, stepRunsDecodedInstruction s _ h, rfl⟩
  · exact ⟨_, stepRunsDecodedInstruction s _ h, rfl⟩

/-- A clock tick that opens the gate moves the reference to its time (R173). -/
theorem lastTickAfter_of_due {last : Option Nat} {now : Nat} (h : tickDue last (.clock now) = true) :
    lastTickAfter last (.clock now) = some now := by
  cases last with
  | none => cases h
  | some l => exact if_pos h

/-- A clock tick less than a period after the reference does not open the gate (R173). -/
theorem tickDue_early {last now : Nat} (h : 60 * (now - last) < 1000000000) :
    tickDue (some last) (.clock now) = false := decide_eq_false (by omega)

/-- Settles O50: if the first tick opens the gate, the second does not. -/
theorem closeTicksDecrementAtMostOnce : Obligations.CloseTicksDecrementAtMostOnce := by
  rintro s s1 s2 now1 now2 r1 r2 hclose rfl rfl
  have fall (b : Byte) : b.toNat ≤ (countDown (tickDue (lastTickAfter s.lastTick (.clock now1)) (.clock now2))
      (countDown (tickDue s.lastTick (.clock now1)) b)).toNat + 1 := by
    cases hdue : tickDue s.lastTick (.clock now1) with
    | true =>
      rw [lastTickAfter_of_due hdue, tickDue_early hclose, countDown_closed]
      exact (countDown_bounds true b).2
    | false =>
      rw [countDown_closed]
      exact (countDown_bounds _ b).2
  exact ⟨fall s.dt, fall s.st⟩

end Sys2Proof.Claims
end

section
/-!
PROOFS. Instructions that store and load at `I` (43_index_memory.md R134 to R137): the checks of R46 by the place of the
run, then the bytes, the index and the frame.
-/

namespace Sys2Proof.Claims

open Sys2Proof.Machine

/-! ### The checks, by the place of the run -/

section Checks
variable {base n : Nat} (s : State) (onOk : Result)

theorem checkedWrite_inside (hn : 0 < n) (hlow : 0x04F < base) (hhigh : base + n ≤ 4096) :
    checked writeFault base n s onOk = onOk := by
  refine checked_ok ?_ s onOk
  rw [firstFault_write base n hn, if_neg (by omega), if_neg (by omega)]

theorem checkedWrite_glyph (hn : 0 < n) (hlow : base ≤ 0x04F) :
    checked writeFault base n s onOk = .next { s with fault := some (.glyphTableWrite base) } := by
  refine checked_raises ?_ s onOk
  rw [firstFault_write base n hn, if_pos hlow]

/-- A run of at most 16 bytes cannot reach from the glyph table past 0xFFF. -/
theorem checkedWrite_above (hpos : 0 < n) (hn : n ≤ 16) (hhigh : 4096 < base + n) :
    checked writeFault base n s onOk = .next { s with fault := some (.memoryOutOfBounds (max 0x1000 base)) } := by
  refine checked_raises ?_ s onOk
  rw [firstFault_write base n hpos, if_neg (by omega), if_pos (by omega), max_comm]

theorem checkedRead_inside (h : n = 0 ∨ base + n ≤ 4096) : checked readFault base n s onOk = onOk := by
  refine checked_ok ?_ s onOk
  rw [firstFault_read, if_neg (by omega)]

theorem checkedRead_above (hn : 0 < n) (hhigh : 4096 < base + n) :
    checked readFault base n s onOk = .next { s with fault := some (.memoryOutOfBounds (max 0x1000 base)) } := by
  refine checked_raises ?_ s onOk
  rw [firstFault_read, if_pos (by omega), max_comm]

end Checks

/-! ### BCD -/

/-- A byte of a stored run, by its place in the run. -/
theorem readByte_writeBytes_of_getElem? {s : State} (hwf : s.memWf = true) {a k : Nat} {bs : List Byte} {b : Byte}
    (hlen : a + bs.length ≤ 4096) (hb : bs[k]? = some b) : (s.writeBytes a bs).readByte (a + k) = b := by
  obtain ⟨hk, rfl⟩ := List.getElem?_eq_some_iff.mp hb
  exact s.readByte_writeBytes_inside hwf a bs hlen hk

/-- Settles O40: the three digits are the bytes stored. -/
theorem bcdStoresThreeDigits : Obligations.BcdStoresThreeDigits := by
  refine fun x s hwf => ⟨fun hlow hhigh => ?_, fun hlow => checkedWrite_glyph s _ (by omega) hlow,
    fun hhigh => checkedWrite_above s _ (by omega) (by omega) (by omega)⟩
  have hbyte := (s.reg x).isLt
  have hread {k : Nat} {b : Byte} := readByte_writeBytes_of_getElem? (k := k) (b := b) hwf
    (a := s.dataAddr) (bs := bcdDigits (s.reg x)) (by rw [bcdDigits_length]; omega)
  have digit {d : Nat} (hd : d < 256) : (BitVec.ofNat 8 d).toNat = d := Nat.mod_eq_of_lt hd
  refine ⟨_, checkedWrite_inside s _ (by omega) hlow (by omega), ?_, ?_, ?_, fun a ha => ?_, ?_, ?_⟩
  · exact (congrArg BitVec.toNat (hread (k := 0) rfl)).trans (digit (by omega))
  · exact (congrArg BitVec.toNat (hread (k := 1) rfl)).trans (digit (by omega))
  · exact (congrArg BitVec.toNat (hread (k := 2) rfl)).trans (digit (by omega))
  · exact s.readByte_writeBytes_outside _ _ (by rwa [bcdDigits_length])
  · rw [State.advance_pc, State.writeBytes_pc]
  · exact ((Keeps.refl _ _ s).writeBytes (List.mem_singleton_self _) _ _).advance

/-! ### Block transfers -/

theorem bumpIndex_toNat (s : State) (x : Reg) :
    (s.bumpIndex x).index.toNat =
      if s.cfg.loadStoreIncrementsI = true then (s.index.toNat + x.val + 1) % 65536 else s.index.toNat := by
  split
  · next hon =>
    rw [s.bumpIndex_index_on x hon, BitVec.toNat_add, BitVec.toNat_ofNat]
    omega
  · next hoff => rw [s.bumpIndex_index_off x (by simpa using hoff)]

/-- Settles O41: the bytes stored are the register run, which is the registers up to `V[x]`. -/
theorem blockStoreWritesRegisters : Obligations.BlockStoreWritesRegisters := by
  refine fun x s hwf => ⟨fun hlow hhigh => ?_, fun hlow => checkedWrite_glyph s _ (by omega) hlow,
    fun hhigh => checkedWrite_above s _ (by omega) (by omega) (by omega)⟩
  have hlen := s.regRun_length x
  refine ⟨_, checkedWrite_inside s _ (by omega) hlow (by omega), fun k hk => ?_, fun a ha => ?_, ?_, ?_, ?_⟩
  · have hk' : k.val < (s.regRun x).length := by
      rw [hlen]
      exact Nat.lt_succ_of_le hk
    rw [State.advance_readByte, State.bumpIndex_readByte,
      s.readByte_writeBytes_inside hwf s.dataAddr (s.regRun x) (by omega) hk', s.regRun_getElem x hk']
  · rw [State.advance_readByte, State.bumpIndex_readByte]
    exact s.readByte_writeBytes_outside _ _ (by omega)
  · rw [State.advance_index, bumpIndex_toNat, State.writeBytes_cfg, State.writeBytes_index]
  · rw [State.advance_pc, State.bumpIndex_pc, State.writeBytes_pc]
  · exact (((Keeps.refl _ _ s).writeBytes (by simp) _ _).bumpIndex (by simp) x).advance

/-- Settles O42: `loadRegRun` register by register; every register number is in `List.finRange 16`. -/
theorem blockLoadReadsRegisters : Obligations.BlockLoadReadsRegisters := by
  refine fun x s => ⟨fun hhigh => ?_, fun hhigh => checkedRead_above s _ (by omega) (by omega)⟩
  refine ⟨_, checkedRead_inside s _ (.inr (by omega)), fun k hk => ?_, fun k hk => ?_, ?_, ?_, ?_⟩
  · rw [State.advance_reg, State.bumpIndex_reg, State.reg_loadRegRun, if_pos hk]
  · rw [State.advance_reg, State.bumpIndex_reg, State.reg_loadRegRun, if_neg (not_le.mpr hk)]
  · rw [State.advance_index, bumpIndex_toNat, State.loadRegRun_cfg, State.loadRegRun_index]
  · rw [State.advance_pc, State.bumpIndex_pc, State.loadRegRun_pc]
  · exact (((Keeps.refl _ _ s).loadRegRun (fun r _ => List.mem_finRange r) _).bumpIndex (by simp) x).advance

/-- Settles O43: two neighbouring bytes of O41, fetched big-endian. -/
theorem storedBytesAreFetched : Obligations.StoredBytesAreFetched := by
  intro x s hwf hlow hhigh
  obtain ⟨t, hexec, hbytes, -⟩ := (blockStoreWritesRegisters x s hwf).1 hlow hhigh
  refine ⟨t, hexec, fun k hk hkx => ?_⟩
  have haddr : (BitVec.ofNat 16 (s.dataAddr + k.val)).toNat = s.dataAddr + k.val :=
    Nat.mod_eq_of_lt (by omega)
  have hfirst : t.readByte (s.dataAddr + k.val) = s.reg k := hbytes k (Fin.le_def.mpr (by omega))
  have hsecond : t.readByte (s.dataAddr + k.val + 1) = s.reg ⟨k.val + 1, hk⟩ := hbytes ⟨k.val + 1, hk⟩ hkx
  rw [State.fetchWord_ok t (by omega), haddr, hfirst, hsecond]
  rfl

end Sys2Proof.Claims
end

section
/-!
PROOFS. Drawing (44_display.md R141 to R145), from the blit as one formula per pixel (Laws/Display.lean).
-/

namespace Sys2Proof.Claims

open Sys2Proof.Machine

/-- The source bit that meets a pixel, in the terms of the claims. -/
theorem sourceBit_iff (s : State) (px py : Byte) (n : Nibble) (r : Fin 32) (c : Fin 64) :
    sourceBit px py (s.readBytes s.dataAddr n.toNat) r c = true ↔ SpriteSets s px py n r c := by
  constructor
  · intro h
    unfold sourceBit at h
    split at h
    · next b hb =>
      obtain ⟨hrow, rfl⟩ := List.getElem?_eq_some_iff.mp hb
      rw [State.readBytes_getElem, rowBit, Bool.and_eq_true, decide_eq_true_eq] at h
      obtain ⟨hcol, hbit⟩ := h
      exact ⟨spriteRow py r, spriteCol px c, by simpa using hrow, hcol, congrArg Fin.val (blitRow_spriteRow py r).symm,
        congrArg Fin.val (blitCol_spriteCol px c).symm, hbit⟩
    · cases h
  · rintro ⟨row, col, hrow, hcol, hr, hc, hbit⟩
    have hrow32 : row < 32 := by omega
    have hr' : spriteRow py r = row := (blitRow_eq_iff py r hrow32).mp (Fin.ext hr)
    have hc' : spriteCol px c = col := (blitCol_eq_iff px c hcol).mp (Fin.ext hc)
    simp [sourceBit, rowBit, spriteBit, State.readBytes, hr', hc', hrow, hcol, hbit]

theorem xor_ne_self_iff (a b : Bool) : (a ^^ b) ≠ a ↔ b = true := by cases a <;> cases b <;> decide

/-- Settles O45: `blit_pixel` and `blit_collision` on the sprite at `I`, which has at most 15 rows. -/
theorem drawXorsTheSprite : Obligations.DrawXorsTheSprite := by
  refine fun x y n s => ⟨fun hinside => ?_, fun hn hhigh => checkedRead_above s _ (by omega) (by omega)⟩
  have hrows : (s.readBytes s.dataAddr n.toNat).length ≤ 32 := by
    rw [State.readBytes_length]
    omega
  refine ⟨_, checkedRead_inside s _ (by omega), fun r c => ?_, ?_, ?_, rfl, ?_⟩
  · have hpixel := blit_pixel (s.reg x) (s.reg y) _ hrows s.fb r c
    refine (Eq.congr_left hpixel).not.trans ?_
    exact (xor_ne_self_iff _ _).trans (sourceBit_iff s _ _ n r c)
  · rw [State.advance_reg, State.reg_setFlag, if_pos rfl, flagByte_eq_one, blit_collision _ _ _ hrows]
    simp only [sourceBit_iff]
    rfl
  · rw [State.advance_reg, State.reg_setFlag, if_pos rfl]
    exact flagByte_cases _
  · exact (((Keeps.refl _ _ s).withScreen (List.mem_singleton_self _) _).setReg (List.mem_singleton_self _) _).advance

/-- The sprite is where `I` points and what memory holds there; nothing else of the state matters. -/
theorem spriteSets_congr {s t : State} (hindex : t.index = s.index) (hmem : ∀ a, t.readByte a = s.readByte a)
    (px py : Byte) (n : Nibble) (r : Fin 32) (c : Fin 64) : SpriteSets t px py n r c ↔ SpriteSets s px py n r c := by
  simp only [SpriteSets, State.dataAddr, hindex, hmem]

/-- Some pixel meets a set bit exactly when the sprite has one: every bit lands somewhere. -/
theorem exists_spriteSets_iff (s : State) (px py : Byte) (n : Nibble) :
    (∃ r c, SpriteSets s px py n r c) ↔
      ∃ row col : Nat, row < n.toNat ∧ col < 8 ∧ (s.readByte (s.dataAddr + row)).getLsbD col = true := by
  constructor
  · rintro ⟨r, c, row, col, hrow, -, -, -, hbit⟩
    exact ⟨row, 7 - col, hrow, by omega, hbit⟩
  · rintro ⟨row, col, hrow, hcol, hbit⟩
    refine ⟨blitRow py row, blitCol px (7 - col), row, 7 - col, hrow, by omega, rfl, rfl, ?_⟩
    rwa [show 7 - (7 - col) = col by omega]

theorem bool_eq_of_flips {a b c : Bool} {p : Prop} (hab : b ≠ a ↔ p) (hbc : c ≠ b ↔ p) : c = a := by
  have : b ≠ a ↔ c ≠ b := hab.trans hbc.symm
  revert this
  cases a <;> cases b <;> cases c <;> decide

/-- Settles O46: by O45 twice; the second draw meets the same sprite, and a pixel it lands on is lit exactly when it was
off before the first. -/
theorem drawingTwiceRestoresTheScreen : Obligations.DrawingTwiceRestoresTheScreen := by
  intro x y n s hx hy hinside
  obtain ⟨t, hfirst, hpix, hvf, hflag, -, hreg, hindex, hmem, -⟩ := (drawXorsTheSprite x y n s).1 hinside
  have hindex' : t.index = s.index := hindex (by decide)
  have hmem' := hmem (by decide)
  have hx' : t.reg x = s.reg x := hreg x (by simpa using hx)
  have hy' : t.reg y = s.reg y := hreg y (by simpa using hy)
  have hinside' : n.toNat = 0 ∨ t.dataAddr + n.toNat - 1 ≤ 0xFFF := by rwa [State.dataAddr, hindex']
  obtain ⟨u, hsecond, hpix', hvf', -⟩ := (drawXorsTheSprite x y n t).1 hinside'
  simp only [hx', hy', spriteSets_congr hindex' hmem'] at hpix' hvf'
  have hlit {r c} (hset : SpriteSets s (s.reg x) (s.reg y) n r c) : t.pixel r c = true ↔ s.pixel r c = false := by
    have hflip := (hpix r c).mpr hset
    cases ht : t.pixel r c <;> cases hs : s.pixel r c <;> simp_all
  have hcollision : u.reg Reg.vf = 1#8 ↔ ∃ r c, s.pixel r c = false ∧ SpriteSets s (s.reg x) (s.reg y) n r c :=
    hvf'.trans (exists₂_congr fun r c => and_congr_left hlit)
  refine ⟨t, u, hfirst, hsecond, fun r c => bool_eq_of_flips (hpix r c) (hpix' r c), hcollision, fun hoff => ⟨?_, ?_⟩⟩
  · refine hflag.resolve_right fun hone => ?_
    obtain ⟨r, c, hs, hset⟩ := hvf.mp hone
    simp [hoff r c hset] at hs
  · rw [hcollision, ← exists_spriteSets_iff s (s.reg x) (s.reg y) n]
    exact exists₂_congr fun r c => and_iff_right_of_imp (hoff r c)

end Sys2Proof.Claims
end

section
/-!
PROOFS. What instructions do not read (00_scope.md R2, 10_state.md R24, 43_index_memory.md R137): with `ST` and the
switches replaced, every instruction outside their families does the same.
-/

namespace Sys2Proof.Claims

open Sys2Proof.Machine

/-- The state with `ST` and the configuration replaced. -/
def retune (b : Byte) (c : Cfg) (s : State) : State := { s with st := b, cfg := c }

section Retuned
variable {b : Byte} {c : Cfg} {s t u : State}

theorem checked_retune {check : Nat → Option Fault} {base n : Nat}
    (h : checked check base n s (.next u) = .next t) :
    checked check base n (retune b c s) (.next (retune b c u)) = .next (retune b c t) := by
  rcases checked_cases check base n s (.next u) with ⟨hok, heq⟩ | ⟨f, hf, heq⟩ <;> rw [heq] at h <;> cases h
  · exact checked_ok hok _ _
  · exact checked_raises hf _ _

theorem retune_readByte (hglyphs : c.glyphs = s.cfg.glyphs) (a : Nat) :
    (retune b c s).readByte a = s.readByte a := by
  simp only [State.readByte, retune, hglyphs]

theorem retune_readBytes (hglyphs : c.glyphs = s.cfg.glyphs) (a n : Nat) :
    (retune b c s).readBytes a n = s.readBytes a n := by
  simp only [State.readBytes, retune_readByte hglyphs]

theorem retune_writeBytes (hglyphs : c.glyphs = s.cfg.glyphs) (a : Nat) (bs : List Byte) :
    (retune b c s).writeBytes a bs = retune b c (s.writeBytes a bs) := by
  induction bs generalizing s a with
  | nil => rfl
  | cons d ds ih =>
    have hbyte : (retune b c s).writeByte a d = retune b c (s.writeByte a d) := by
      simp only [State.writeByte, retune, hglyphs]
    rw [State.writeBytes, hbyte]
    exact ih (s := s.writeByte a d) hglyphs (a + 1)

theorem retune_bumpIndex (hincr : c.loadStoreIncrementsI = s.cfg.loadStoreIncrementsI) (x : Reg) :
    (retune b c s).bumpIndex x = retune b c (s.bumpIndex x) := by
  have hcfg : (retune b c s).cfg.loadStoreIncrementsI = s.cfg.loadStoreIncrementsI := hincr
  unfold State.bumpIndex
  rw [hcfg]
  split <;> rfl

theorem retune_loadRegRun (hglyphs : c.glyphs = s.cfg.glyphs) (a : Nat) (x : Reg) :
    (retune b c s).loadRegRun a x = retune b c (s.loadRegRun a x) := by
  simp only [State.loadRegRun, retune_readByte hglyphs]
  rfl

theorem retune_shiftOperand (hshift : c.shiftUsesVy = s.cfg.shiftUsesVy) (x y : Reg) :
    (retune b c s).shiftOperand x y = s.shiftOperand x y := by
  have hcfg : (retune b c s).cfg.shiftUsesVy = s.cfg.shiftUsesVy := hshift
  unfold State.shiftOperand
  rw [hcfg]
  rfl

/-- An instruction that does not load `ST` does the same with `ST` replaced by anything, and with the configuration
replaced by one that agrees on everything the instruction's family reads. -/
theorem exec_retune {i : Instr} (h : exec i s = .next t) (hsound : ∀ x, i ≠ .ldSTVx x)
    (hglyphs : c.glyphs = s.cfg.glyphs) (hover : c.glyphOverrange = s.cfg.glyphOverrange)
    (hshift : (∀ x y, i ≠ .shr x y ∧ i ≠ .shl x y) ∨ c.shiftUsesVy = s.cfg.shiftUsesVy)
    (hincr : (∀ x, i ≠ .storeRegs x ∧ i ≠ .loadRegs x) ∨ c.loadStoreIncrementsI = s.cfg.loadStoreIncrementsI) :
    exec i (retune b c s) = .next (retune b c t) := by
  cases i with
  | ldSTVx x => exact absurd rfl (hsound x)
  | shr x y =>
    have hshift' := hshift.resolve_left fun hnot => (hnot x y).1 rfl
    cases h
    rw [exec, execShr, retune_shiftOperand hshift']
    rfl
  | shl x y =>
    have hshift' := hshift.resolve_left fun hnot => (hnot x y).2 rfl
    cases h
    rw [exec, execShl, retune_shiftOperand hshift']
    rfl
  | ldF x =>
    have hover' : (retune b c s).cfg.glyphOverrange = s.cfg.glyphOverrange := hover
    cases h
    rw [exec, execLdF, hover']
    rfl
  | ret =>
    by_cases hsp : s.sp.val = 0
    · cases (if_pos hsp).symm.trans h
      exact if_pos hsp
    · cases (if_neg hsp).symm.trans h
      exact if_neg hsp
  | call addr =>
    by_cases hsp : s.sp.val < 16
    · cases (dif_pos hsp).symm.trans h
      exact dif_pos hsp
    · cases (dif_neg hsp).symm.trans h
      exact dif_neg hsp
  | ldVxK x =>
    rcases execLdVxK_next h with ⟨hkey, rfl⟩ | ⟨k, hkey, rfl⟩
    · exact execLdVxK_waits hkey
    · exact execLdVxK_takes hkey
  | drw x y n =>
    rw [exec, execDrw, retune_readBytes hglyphs]
    exact checked_retune h
  | ldB x =>
    rw [exec, execLdB, retune_writeBytes hglyphs]
    exact checked_retune h
  | storeRegs x =>
    have hincr' := hincr.resolve_left fun hnot => (hnot x).1 rfl
    rw [exec, execStoreRegs, retune_writeBytes hglyphs, retune_bumpIndex (by rwa [State.writeBytes_cfg])]
    exact checked_retune h
  | loadRegs x =>
    have hincr' := hincr.resolve_left fun hnot => (hnot x).2 rfl
    rw [exec, execLoadRegs, retune_loadRegRun hglyphs, retune_bumpIndex (by rwa [State.loadRegRun_cfg])]
    exact checked_retune h
  | cls | sys | jp | seImm | sneImm | seReg | ldImm | addImm | ldReg | or | and | xor | addReg | sub | subn
  | sneReg | ldI | jpV0 | rnd | skp | sknp | ldVxDT | ldDTVx | addI =>
    cases h
    rfl

end Retuned

theorem retune_sound {s t : State} (hcfg : t.cfg = s.cfg) (b : Byte) : retune b s.cfg t = { t with st := b } := by
  rw [← hcfg]
  rfl

/-- Settles O55: `ST` replaced and the configuration kept. -/
theorem soundTimerIsNeverRead : Obligations.SoundTimerIsNeverRead := by
  refine fun i s t b h => ⟨?_, fun hsound => ?_⟩
  · rintro ⟨x, rfl⟩
    cases h
    rfl
  · have hsame := exec_retune (b := b) (c := s.cfg) h hsound rfl rfl (.inr rfl) (.inr rfl)
    rwa [retune_sound (exec_keeps_cfg h), retune_sound rfl] at hsame

/-- The configuration replaced and `ST` kept. -/
theorem exec_withCfg {i : Instr} {s t : State} {c : Cfg} (h : exec i s = .next t)
    (hglyphs : c.glyphs = s.cfg.glyphs) (hover : c.glyphOverrange = s.cfg.glyphOverrange)
    (hshift : (∀ x y, i ≠ .shr x y ∧ i ≠ .shl x y) ∨ c.shiftUsesVy = s.cfg.shiftUsesVy)
    (hincr : (∀ x, i ≠ .storeRegs x ∧ i ≠ .loadRegs x) ∨ c.loadStoreIncrementsI = s.cfg.loadStoreIncrementsI) :
    exec i { s with cfg := c } = .next { t with cfg := c } := by
  by_cases hsound : ∃ x, i = .ldSTVx x
  · obtain ⟨x, rfl⟩ := hsound
    cases h
    rfl
  · have hsound' : ∀ x, i ≠ .ldSTVx x := fun x heq => hsound ⟨x, heq⟩
    have hst : retune s.st c t = { t with cfg := c } := by
      rw [← exec_keeps_st h hsound']
      rfl
    exact (exec_retune h hsound' hglyphs hover hshift hincr).trans (congrArg _ hst)

/-- Settles O56: each switch replaced alone. -/
theorem switchesConcernOnlyTheirFamilies : Obligations.SwitchesConcernOnlyTheirFamilies := by
  intro i s t b h
  rw [exec_keeps_cfg h]
  exact ⟨fun hi => exec_withCfg h rfl rfl (.inl hi) (.inr rfl), fun hi => exec_withCfg h rfl rfl (.inr rfl) (.inl hi)⟩

end Sys2Proof.Claims
end

section
/-!
PROOFS. Host commands (70_reset_and_hazards.md R195 to R197, 60_exceptions.md R176) and the finished run (R206).
-/

namespace Sys2Proof.Claims

open Sys2Proof.Machine

theorem clearProgram_frame (s : State) : Keeps [.memory] [] s s.clearProgram :=
  ⟨fun _ _ => rfl, fun _ => rfl, fun hnot => absurd (List.mem_singleton_self _) hnot, fun _ _ _ => rfl,
    fun _ => ⟨rfl, rfl⟩, fun _ => rfl, fun _ => rfl, fun _ => rfl, rfl, rfl, rfl, rfl, rfl⟩

/-- Settles O57: `readByte_clearProgram` on both sides of 0x200. -/
theorem clearAndSetKeyChangeNothingElse : Obligations.ClearAndSetKeyChangeNothingElse := by
  refine fun s k => ⟨fun a ha _ => ?_, fun a ha => ?_, rfl, clearProgram_frame s, rfl, rfl,
    (Keeps.refl _ _ s).setKey (List.mem_singleton_self _) k⟩
  · rw [State.readByte_clearProgram, if_neg (by omega)]
  · rw [State.readByte_clearProgram, if_pos ha]

/-- Settles O58: a program that fits is one run of bytes stored at 0x200. -/
theorem loadProgramWritesMemoryOnly : Obligations.LoadProgramWritesMemoryOnly := by
  refine fun s t bytes r hwf h => ⟨fun hlen => ?_, fun hlong => ?_⟩
  · cases (loadProgram_fits hlen).symm.trans h
    have hinside : 0x200 + bytes.length ≤ 4096 := by omega
    refine ⟨rfl, fun k hk => s.readByte_writeBytes_inside hwf 0x200 bytes hinside hk,
      fun a ha => s.readByte_writeBytes_outside 0x200 bytes ha, s.writeBytes_pc _ _,
      (Keeps.refl _ _ s).writeBytes (List.mem_singleton_self _) _ _, ?_⟩
    rintro b0 b1 rest rfl
    simp only [List.length_cons] at hinside
    exact fetchWord_writeBytes hwf (a := 0x200#16) (by decide) b0 b1 rest
      (show 0x200 + 2 + rest.length ≤ 4096 by omega)
  · cases (loadProgram_tooLong hlong).symm.trans h
    exact ⟨rfl, rfl⟩

/-! ### The finished run -/

theorem addrWord_setWidth {a : Word} (ha : a.toNat < 4096) : addrWord (a.setWidth 12) = a := by
  apply BitVec.eq_of_toNat_eq
  rw [addrWord_toNat, BitVec.toNat_setWidth]
  exact Nat.mod_eq_of_lt ha

/-- The word `JP a`, as the finished run writes it, decodes to `JP a`. -/
theorem decodeWord_jp_or {a : Word} (ha : a.toNat < 4096) :
    decodeWord (0x1000#16 ||| a) = .ok (.jp (a.setWidth 12)) := by
  refine decodeWord_of_encode rfl (BitVec.eq_of_toNat_eq ?_)
  have hlow : (a.setWidth 12).toNat = a.toNat := by
    rw [BitVec.toNat_setWidth]
    exact Nat.mod_eq_of_lt ha
  simp only [encode, encodeNNN, BitVec.toNat_append, BitVec.toNat_or, hlow]
  rfl

theorem finished_cases {s : State} (h : s.finished = true) :
    s.pc.toNat < 4096 ∧ Executes s (.jp (s.pc.setWidth 12)) := by
  unfold State.finished State.running at h
  rw [Bool.and_eq_true, beq_iff_eq] at h
  obtain ⟨hfault, hword⟩ := h
  split at hword
  · next w hw =>
    rw [Bool.and_eq_true, beq_iff_eq, decide_eq_true_eq] at hword
    obtain ⟨rfl, hpc⟩ := hword
    have hlt : s.pc.toNat < 4096 := by omega
    exact ⟨hlt, executes_iff.mpr ⟨hfault, _, hw, decodeWord_jp_or hlt⟩⟩
  · cases hword

/-- Settles O60: the step executes a jump to where `pc` already is. -/
theorem finishedRunOnlyTicks : Obligations.FinishedRunOnlyTicks := by
  intro s h
  obtain ⟨hpc, hexec⟩ := finished_cases h
  have hstay : exec (.jp (s.pc.setWidth 12)) s.timerTick = .next s.timerTick := by
    rw [exec, execJp, addrWord_setWidth hpc]
    rfl
  rw [stepRunsDecodedInstruction s _ hexec, hstay]
  rfl

end Sys2Proof.Claims
end
